-- ==== Sys2Proof/Word.lean ====
section
/-! DEFINITION. The word types of the machine (00_scope.md R8, R9; 10_state.md R24, R27, R37). -/

namespace Sys2Proof

/-- A byte: a memory cell, a general register, an immediate `nn`, a timer. -/
abbrev Byte := BitVec 8

/-- A 16-bit word: an instruction word, `pc`, `I`, a stack entry. -/
abbrev Word := BitVec 16

/-- A register selector `x` or `y` (30_encoding.md R86), naming V0..VF. -/
abbrev RegIdx := BitVec 4

/-- A virtual key 0..15 (10_state.md R34). -/
abbrev Key := BitVec 4

/-- A 4-bit count `n` (30_encoding.md R86). -/
abbrev Nibble := BitVec 4

/-- A 12-bit address field `nnn` (30_encoding.md R86). -/
abbrev Addr := BitVec 12

/-- One framebuffer row, bit 63 the leftmost pixel (10_state.md R37). -/
abbrev Row := BitVec 64

end Sys2Proof
end

