-- ==== Sys2Proof/Syntax.lean ====
section
/-! DEFINITION. The instructions: one constructor per row of spec/opcode_table.json (30_encoding.md R91), operands
as the fields of R86. -/

namespace Sys2Proof

/-- The 34 base instructions and the machine-code call (00_scope.md R2, 30_encoding.md R91). -/
inductive Instr where
  /-- `00E0` CLS -/
  | cls
  /-- `00EE` RET -/
  | ret
  /-- `0NNN` SYS nnn, every 0NNN word but 00E0 and 00EE -/
  | sys (nnn : Addr)
  /-- `1NNN` JP nnn -/
  | jp (nnn : Addr)
  /-- `2NNN` CALL nnn -/
  | call (nnn : Addr)
  /-- `3XNN` SE Vx, nn -/
  | seImm (x : RegIdx) (nn : Byte)
  /-- `4XNN` SNE Vx, nn -/
  | sneImm (x : RegIdx) (nn : Byte)
  /-- `5XY0` SE Vx, Vy -/
  | seReg (x y : RegIdx)
  /-- `6XNN` LD Vx, nn -/
  | ldImm (x : RegIdx) (nn : Byte)
  /-- `7XNN` ADD Vx, nn -/
  | addImm (x : RegIdx) (nn : Byte)
  /-- `8XY0` LD Vx, Vy -/
  | ldReg (x y : RegIdx)
  /-- `8XY1` OR Vx, Vy -/
  | orReg (x y : RegIdx)
  /-- `8XY2` AND Vx, Vy -/
  | andReg (x y : RegIdx)
  /-- `8XY3` XOR Vx, Vy -/
  | xorReg (x y : RegIdx)
  /-- `8XY4` ADD Vx, Vy -/
  | addReg (x y : RegIdx)
  /-- `8XY5` SUB Vx, Vy -/
  | subReg (x y : RegIdx)
  /-- `8XY6` SHR Vx, Vy -/
  | shr (x y : RegIdx)
  /-- `8XY7` SUBN Vx, Vy -/
  | subn (x y : RegIdx)
  /-- `8XYE` SHL Vx, Vy -/
  | shl (x y : RegIdx)
  /-- `9XY0` SNE Vx, Vy -/
  | sneReg (x y : RegIdx)
  /-- `ANNN` LD I, nnn -/
  | ldI (nnn : Addr)
  /-- `BNNN` JP V0, nnn -/
  | jpV0 (nnn : Addr)
  /-- `CXNN` RND Vx, nn -/
  | rnd (x : RegIdx) (nn : Byte)
  /-- `DXYN` DRW Vx, Vy, n -/
  | drw (x y : RegIdx) (n : Nibble)
  /-- `EX9E` SKP Vx -/
  | skp (x : RegIdx)
  /-- `EXA1` SKNP Vx -/
  | sknp (x : RegIdx)
  /-- `FX07` LD Vx, DT -/
  | ldVxDT (x : RegIdx)
  /-- `FX0A` LD Vx, K -/
  | ldVxK (x : RegIdx)
  /-- `FX15` LD DT, Vx -/
  | ldDTVx (x : RegIdx)
  /-- `FX18` LD ST, Vx -/
  | ldSTVx (x : RegIdx)
  /-- `FX1E` ADD I, Vx -/
  | addI (x : RegIdx)
  /-- `FX29` LD F, Vx -/
  | ldF (x : RegIdx)
  /-- `FX33` LD B, Vx -/
  | ldB (x : RegIdx)
  /-- `FX55` LD [I], Vx -/
  | storeRegs (x : RegIdx)
  /-- `FX65` LD Vx, [I] -/
  | loadRegs (x : RegIdx)
deriving DecidableEq, Repr

end Sys2Proof
end

