-- ==== Sys2Proof/Decode.lean ====
section
/-! DEFINITION. The instruction decoder (30_encoding.md R85 to R94), total on every word and on every byte
sequence, and after it the encoder, written from the same tables. -/

namespace Sys2Proof

/-- `op` = w[15:12] (R86). -/
def opField (w : Word) : BitVec 4 := w.extractLsb' 12 4

/-- `x` = w[11:8] (R86). -/
def xField (w : Word) : RegIdx := w.extractLsb' 8 4

/-- `y` = w[7:4] (R86). -/
def yField (w : Word) : RegIdx := w.extractLsb' 4 4

/-- `n` = w[3:0] (R86). -/
def nField (w : Word) : Nibble := w.extractLsb' 0 4

/-- `nn` = w[7:0] (R86). -/
def nnField (w : Word) : Byte := w.extractLsb' 0 8

/-- `nnn` = w[11:0] (R86). -/
def nnnField (w : Word) : Addr := w.extractLsb' 0 12

/-- What a word decodes to (R85): an instruction (the class `MachineCodeCall` is the instruction `sys`), or the
class `Unsupported`, which keeps the raw word. -/
inductive Decoded where
  | instr (i : Instr)
  | unsupported (w : Word)
deriving DecidableEq, Repr

/-- R89, `op` = 0x0: exact match of CLS and RET, every other word a machine-code call (R90). -/
def decodeOp0 (w : Word) : Decoded :=
  if w = 0x00E0 then .instr .cls
  else if w = 0x00EE then .instr .ret
  else .instr (.sys (nnnField w))

/-- R89, `op` = 0x8: the low nibble selects. -/
def decodeOp8 (w : Word) : Decoded :=
  match (nField w).toNat with
  | 0x0 => .instr (.ldReg (xField w) (yField w))
  | 0x1 => .instr (.orReg (xField w) (yField w))
  | 0x2 => .instr (.andReg (xField w) (yField w))
  | 0x3 => .instr (.xorReg (xField w) (yField w))
  | 0x4 => .instr (.addReg (xField w) (yField w))
  | 0x5 => .instr (.subReg (xField w) (yField w))
  | 0x6 => .instr (.shr (xField w) (yField w))
  | 0x7 => .instr (.subn (xField w) (yField w))
  | 0xE => .instr (.shl (xField w) (yField w))
  | _ => .unsupported w

/-- R89, `op` = 0xE: the low byte selects (90_conflicts.md C4). -/
def decodeOpE (w : Word) : Decoded :=
  match (nnField w).toNat with
  | 0x9E => .instr (.skp (xField w))
  | 0xA1 => .instr (.sknp (xField w))
  | _ => .unsupported w

/-- R89, `op` = 0xF: the low byte selects (90_conflicts.md C4). -/
def decodeOpF (w : Word) : Decoded :=
  match (nnField w).toNat with
  | 0x07 => .instr (.ldVxDT (xField w))
  | 0x0A => .instr (.ldVxK (xField w))
  | 0x15 => .instr (.ldDTVx (xField w))
  | 0x18 => .instr (.ldSTVx (xField w))
  | 0x1E => .instr (.addI (xField w))
  | 0x29 => .instr (.ldF (xField w))
  | 0x33 => .instr (.ldB (xField w))
  | 0x55 => .instr (.storeRegs (xField w))
  | 0x65 => .instr (.loadRegs (xField w))
  | _ => .unsupported w

/-- `Decode(w)` (R89): a total function on all 65536 words. -/
def decode (w : Word) : Decoded :=
  match (opField w).toNat with
  | 0x0 => decodeOp0 w
  | 0x1 => .instr (.jp (nnnField w))
  | 0x2 => .instr (.call (nnnField w))
  | 0x3 => .instr (.seImm (xField w) (nnField w))
  | 0x4 => .instr (.sneImm (xField w) (nnField w))
  | 0x5 => if nField w = 0 then .instr (.seReg (xField w) (yField w)) else .unsupported w
  | 0x6 => .instr (.ldImm (xField w) (nnField w))
  | 0x7 => .instr (.addImm (xField w) (nnField w))
  | 0x8 => decodeOp8 w
  | 0x9 => if nField w = 0 then .instr (.sneReg (xField w) (yField w)) else .unsupported w
  | 0xA => .instr (.ldI (nnnField w))
  | 0xB => .instr (.jpV0 (nnnField w))
  | 0xC => .instr (.rnd (xField w) (nnField w))
  | 0xD => .instr (.drw (xField w) (yField w) (nField w))
  | 0xE => decodeOpE w
  | _ => decodeOpF w          -- 0xF, the last value of a 4-bit field

/-- The word two consecutive bytes hold, the byte at the lower address the high one (20_memory.md R67). -/
def wordOfBytes (hi lo : Byte) : Word := hi ++ lo

/-- The high byte of a word, stored at the lower address (20_memory.md R67). -/
def highByte (w : Word) : Byte := w.extractLsb' 8 8

/-- The low byte of a word, stored at the higher address (20_memory.md R67). -/
def lowByte (w : Word) : Byte := w.extractLsb' 0 8

/-- What a byte sequence decodes to: one instruction and the bytes after it, an unsupported word, or too few bytes
for the 2 that a decoder always consumes (R85). -/
inductive DecodedBytes where
  | instr (i : Instr) (rest : List Byte)
  | unsupported (w : Word)
  | truncated
deriving DecidableEq, Repr

/-- Decoding a byte sequence: always 2 bytes (R85), big-endian (20_memory.md R67). -/
def decodeBytes : List Byte → DecodedBytes
  | hi :: lo :: rest =>
    match decode (wordOfBytes hi lo) with
    | .instr i => .instr i rest
    | .unsupported w => .unsupported w
  | [_] => .truncated
  | [] => .truncated

/-- The instruction word of a table row's bits, numbered as spec/opcode_table.json numbers them: one 16-bit word, bit 0
the least significant, every bit above `nbits` zero. -/
def tableWord (nbits w : Nat) : Word := BitVec.ofNat 16 (w % 2 ^ nbits)

/-- The instruction the decoder reads from the bytes of a table row's bits, laid out big-endian. -/
def decodeTableWord (nbits w : Nat) : Option Instr :=
  match decodeBytes [highByte (tableWord nbits w), lowByte (tableWord nbits w)] with
  | .instr i _ => some i
  | .unsupported _ => none
  | .truncated => none

/-! The encoder. -/

/-- Layout `A` (R87): op, nnn. -/
def layoutA (op : BitVec 4) (nnn : Addr) : Word := op ++ nnn

/-- Layout `XB` and `XF` (R87): op, x, and a byte (an immediate, or the function byte). -/
def layoutXB (op : BitVec 4) (x : RegIdx) (nn : Byte) : Word := op ++ x ++ nn

/-- Layout `XYN` (R87): op, x, y, n. -/
def layoutXYN (op : BitVec 4) (x y : RegIdx) (n : Nibble) : Word := op ++ x ++ y ++ n

/-- The word of an instruction (R87, R91). -/
def encode : Instr → Word
  | .cls => 0x00E0
  | .ret => 0x00EE
  | .sys nnn => layoutA 0x0 nnn
  | .jp nnn => layoutA 0x1 nnn
  | .call nnn => layoutA 0x2 nnn
  | .seImm x nn => layoutXB 0x3 x nn
  | .sneImm x nn => layoutXB 0x4 x nn
  | .seReg x y => layoutXYN 0x5 x y 0x0
  | .ldImm x nn => layoutXB 0x6 x nn
  | .addImm x nn => layoutXB 0x7 x nn
  | .ldReg x y => layoutXYN 0x8 x y 0x0
  | .orReg x y => layoutXYN 0x8 x y 0x1
  | .andReg x y => layoutXYN 0x8 x y 0x2
  | .xorReg x y => layoutXYN 0x8 x y 0x3
  | .addReg x y => layoutXYN 0x8 x y 0x4
  | .subReg x y => layoutXYN 0x8 x y 0x5
  | .shr x y => layoutXYN 0x8 x y 0x6
  | .subn x y => layoutXYN 0x8 x y 0x7
  | .shl x y => layoutXYN 0x8 x y 0xE
  | .sneReg x y => layoutXYN 0x9 x y 0x0
  | .ldI nnn => layoutA 0xA nnn
  | .jpV0 nnn => layoutA 0xB nnn
  | .rnd x nn => layoutXB 0xC x nn
  | .drw x y n => layoutXYN 0xD x y n
  | .skp x => layoutXB 0xE x 0x9E
  | .sknp x => layoutXB 0xE x 0xA1
  | .ldVxDT x => layoutXB 0xF x 0x07
  | .ldVxK x => layoutXB 0xF x 0x0A
  | .ldDTVx x => layoutXB 0xF x 0x15
  | .ldSTVx x => layoutXB 0xF x 0x18
  | .addI x => layoutXB 0xF x 0x1E
  | .ldF x => layoutXB 0xF x 0x29
  | .ldB x => layoutXB 0xF x 0x33
  | .storeRegs x => layoutXB 0xF x 0x55
  | .loadRegs x => layoutXB 0xF x 0x65

/-! The opcode table's own columns (spec/opcode_table.json). -/

/-- The bits a row of the opcode table fixes. -/
def Instr.mask : Instr → Word
  | .cls | .ret => 0xFFFF
  | .sys _ | .jp _ | .call _ | .seImm _ _ | .sneImm _ _ | .ldImm _ _ | .addImm _ _ | .ldI _ | .jpV0 _ | .rnd _ _
  | .drw _ _ _ => 0xF000
  | .seReg _ _ | .ldReg _ _ | .orReg _ _ | .andReg _ _ | .xorReg _ _ | .addReg _ _ | .subReg _ _ | .shr _ _
  | .subn _ _ | .shl _ _ | .sneReg _ _ => 0xF00F
  | .skp _ | .sknp _ | .ldVxDT _ | .ldVxK _ | .ldDTVx _ | .ldSTVx _ | .addI _ | .ldF _ | .ldB _ | .storeRegs _
  | .loadRegs _ => 0xF0FF

/-- The values of the bits a row of the opcode table fixes. -/
def Instr.matchBits : Instr → Word
  | .cls => 0x00E0
  | .ret => 0x00EE
  | .sys _ => 0x0000
  | .jp _ => 0x1000
  | .call _ => 0x2000
  | .seImm _ _ => 0x3000
  | .sneImm _ _ => 0x4000
  | .seReg _ _ => 0x5000
  | .ldImm _ _ => 0x6000
  | .addImm _ _ => 0x7000
  | .ldReg _ _ => 0x8000
  | .orReg _ _ => 0x8001
  | .andReg _ _ => 0x8002
  | .xorReg _ _ => 0x8003
  | .addReg _ _ => 0x8004
  | .subReg _ _ => 0x8005
  | .shr _ _ => 0x8006
  | .subn _ _ => 0x8007
  | .shl _ _ => 0x800E
  | .sneReg _ _ => 0x9000
  | .ldI _ => 0xA000
  | .jpV0 _ => 0xB000
  | .rnd _ _ => 0xC000
  | .drw _ _ _ => 0xD000
  | .skp _ => 0xE09E
  | .sknp _ => 0xE0A1
  | .ldVxDT _ => 0xF007
  | .ldVxK _ => 0xF00A
  | .ldDTVx _ => 0xF015
  | .ldSTVx _ => 0xF018
  | .addI _ => 0xF01E
  | .ldF _ => 0xF029
  | .ldB _ => 0xF033
  | .storeRegs _ => 0xF055
  | .loadRegs _ => 0xF065

end Sys2Proof
end

