-- ==== Sys2Proof/Config.lean ====
section
/-! DEFINITION. What is fixed when the machine is built (00_scope.md R5, R6), the moves of the machine's agents, and
the free values the spec leaves without a law (R7). -/

namespace Sys2Proof

/-- `SHIFT_SOURCE` (00_scope.md R6): the register 8XY6 and 8XYE shift. -/
inductive ShiftSource where
  | vy
  | vx
deriving DecidableEq, Repr

/-- `JUMP_BASE` (00_scope.md R6): the register BNNN adds. -/
inductive JumpBase where
  | v0
  | vx
deriving DecidableEq, Repr

/-- The construction-time parameters of 00_scope.md R6. -/
structure Config where
  shiftSource : ShiftSource
  jumpBase : JumpBase
  memoryIncrementsI : Bool
  /-- `FONT`: the 80 bytes placed at 0x50..0x9F. -/
  font : Vector Byte 80
deriving DecidableEq, Repr

/-- The default `FONT` table of 20_memory.md R63, digit by digit. -/
def defaultFont : Vector Byte 80 :=
  #v[0xF0, 0x90, 0x90, 0x90, 0xF0,
     0x20, 0x60, 0x20, 0x20, 0x70,
     0xF0, 0x10, 0xF0, 0x80, 0xF0,
     0xF0, 0x10, 0xF0, 0x10, 0xF0,
     0x90, 0x90, 0xF0, 0x10, 0x10,
     0xF0, 0x80, 0xF0, 0x10, 0xF0,
     0xF0, 0x80, 0xF0, 0x90, 0xF0,
     0xF0, 0x10, 0x20, 0x40, 0x40,
     0xF0, 0x90, 0xF0, 0x90, 0xF0,
     0xF0, 0x90, 0xF0, 0x10, 0xF0,
     0xF0, 0x90, 0xF0, 0x90, 0x90,
     0xE0, 0x90, 0xE0, 0x90, 0xE0,
     0xF0, 0x80, 0x80, 0x80, 0xF0,
     0xE0, 0x90, 0x90, 0x90, 0xE0,
     0xF0, 0x80, 0xF0, 0x80, 0xF0,
     0xF0, 0x80, 0xF0, 0x80, 0x80]

/-- `CFG_DEFAULT` (00_scope.md R6, decision D28). -/
def Config.default : Config :=
  { shiftSource := .vy, jumpBase := .v0, memoryIncrementsI := true, font := defaultFont }

/-- The random byte of the `k`-th draw of CXNN (42_alu.md R143, 00_scope.md R7): a draw with no law, so a
constant with no body; no value of it can be proved. Assumption log 3. -/
opaque Config.randomByte : Nat → Byte

/-- A key event (10_state.md R35). -/
inductive KeyEvent where
  | pressed (k : Key)
  | released (k : Key)
deriving DecidableEq, Repr

/-- One atomic step of one agent (60_exceptions.md R180), or the host's termination (R189). -/
inductive AgentMove where
  | engine
  | tickDT
  | tickST
  | key (e : KeyEvent)
  | terminate
deriving DecidableEq, Repr

/-- What else happens in the `n`-th round of the schedule, before that round's due move (60_exceptions.md R180, R181):
any finite run of agent moves, so a constant with no body. Assumption log 23. -/
opaque Config.otherMoves : Nat → List AgentMove

/-- `MEM_SIZE` (00_scope.md R5). -/
abbrev memSize : Nat := 4096

/-- `PROG_BASE` (00_scope.md R5). -/
abbrev progBase : Nat := 0x200

/-- `PROG_MAX` (00_scope.md R5). -/
abbrev progMax : Nat := 3584

/-- `FONT_BASE` (00_scope.md R5). -/
abbrev fontBase : Nat := 0x50

/-- `STACK_DEPTH` (00_scope.md R5). -/
abbrev stackDepth : Nat := 16

end Sys2Proof
end

