-- ==== Sys2Proof/Machine/State.lean ====
section
/-! DEFINITION. The state of the machine as plain data, the reasons a step can stop, and the state after reset
(10_state.md R20 to R41, 60_exceptions.md R170, R171, R180, 70_reset_and_hazards.md R200). -/

namespace Sys2Proof.Machine

/-- The fault kinds of 60_exceptions.md R171. -/
inductive FaultKind where
  | unsupportedOpcode
  | machineCodeCall
  | stackOverflow
  | stackUnderflow
  | memoryOutOfBounds
  | indexOverflow
  | fetchOutOfBounds
deriving DecidableEq, Repr

/-- The fault record of 60_exceptions.md R170. -/
structure FaultRecord where
  kind : FaultKind
  /-- The instruction word, none for `fetchOutOfBounds`. -/
  word : Option Word
  /-- The address of the faulting instruction, not the advanced pc. -/
  pc : Word
  /-- The lowest offending address, for `memoryOutOfBounds` only. -/
  addr : Option Word
deriving DecidableEq, Repr

/-- `status` (10_state.md R20, R23). -/
inductive Status where
  | running
  | halted (record : FaultRecord)
deriving DecidableEq, Repr

/-- Where the schedule goes on once the moves of `agenda` are made (60_exceptions.md R180, R181). Assumption log 2, 23. -/
inductive Supply where
  /-- Round after round of the free schedule, from round `n` on: every fair interleaving. -/
  | free (n : Nat)
  /-- No other agent moves any more: the engine cycles alone while it is running. -/
  | engineAlone
deriving DecidableEq, Repr

/-- The framebuffer, row 0 the top (10_state.md R37). -/
abbrev FrameBuffer := Vector Row 32

/-- Memory as the bytes that differ from what an unlisted address reads as: addresses strictly rising, none above
0xFFF. Which byte an unlisted address reads as is `unlistedByte` (Machine/Ops.lean). Assumption log 11. -/
abbrev Memory := List Host.Cell

/-- Everything the spec gives the machine (10_state.md R20, R21, R41), and four fields of the model's own. -/
structure State where
  /-- `V0`..`VF` (R24). -/
  v : Vector Byte 16
  /-- The index register `I` (R26). -/
  i : Word
  /-- The program counter (R27). -/
  pc : Word
  /-- The call-stack entries 0..15 (R30). -/
  stack : Vector Word 16
  /-- The number of entries held, 0..16 (R30). -/
  sp : Fin 17
  /-- The framebuffer (R37). -/
  fb : FrameBuffer
  /-- The delay timer (R32). -/
  dt : Byte
  /-- The sound timer (R32). -/
  st : Byte
  /-- The held-key mask (R34). -/
  keys : BitVec 16
  /-- The pending key events, oldest first (R35). -/
  keyq : List KeyEvent
  /-- Running, or halted with a fault record (R23). -/
  status : Status
  /-- The cycle's skip outcome (R22, R41). -/
  skip : Bool
  /-- The snapshot stream, oldest first (R38). -/
  snapshots : List FrameBuffer
  /-- The 4096 bytes of memory (20_memory.md R60). -/
  mem : Memory
  /-- MODEL's own: the construction-time parameters (00_scope.md R6), never changed. Assumption log 1. -/
  cfg : Config
  /-- MODEL's own: the moves next ahead in the schedule (00_scope.md R7, 60_exceptions.md R180). Assumption log 2. -/
  agenda : List AgentMove
  /-- MODEL's own: the schedule after `agenda` (60_exceptions.md R180, R181). Assumption log 23. -/
  supply : Supply
  /-- MODEL's own: how many random bytes have been drawn (00_scope.md R7). Assumption log 3. -/
  draws : Nat
deriving DecidableEq, Repr

/-- Why a step answers no next state. -/
inductive Fault where
  /-- Raised by `step` when the engine is halted and the schedule has no move left for any other agent: no agent
  of 60_exceptions.md R180 is due, and a halted engine never runs again (R175). The record is the machine's fault
  output. Safe: the machine stops where the spec gives the engine no step. Assumption log 6. -/
  | engineHalted (record : FaultRecord)
deriving DecidableEq, Repr

/-- Why a step has no meaning. -/
inductive Refusal where
  /-- Raised by an arm of `exec` for an instruction that has no meaning yet. Safe: the model stops. -/
  | notModelled (mnemonic : String)
  /-- Raised by `step` when the schedule's next move is the host's termination (60_exceptions.md R189): a run the
  host has ended has no final state. Safe: nothing is claimed of such a run. Assumption log 8. -/
  | hostTerminated
deriving DecidableEq, Repr

/-- What one step or one meaning answers. -/
abbrev Answer := Host.Outcome State Fault Refusal

/-- The machine as construction leaves it before the program's bytes are placed (20_memory.md R64,
70_reset_and_hazards.md R200), for a given configuration. -/
def State.construct (cfg : Config) : State :=
  { v := Vector.replicate 16 0
    i := 0
    pc := 0x200
    stack := Vector.replicate 16 0
    sp := 0
    fb := Vector.replicate 32 0
    dt := 0
    st := 0
    keys := 0
    keyq := []
    status := .running
    skip := false
    snapshots := []
    mem := []
    cfg := cfg
    agenda := []
    supply := .free 0
    draws := 0 }

/-- The machine right after reset (70_reset_and_hazards.md R200, R201), under `CFG_DEFAULT`, nothing placed. -/
def State.reset : State := State.construct Config.default

end Sys2Proof.Machine
end

