-- ==== Sys2Proof/Machine/Ops.lean ====
section
/-! DEFINITION. The named operations over registers, memory, call stack, framebuffer, timers and keypad
(10_state.md R42 to R49), and raising a fault. There is no return from a fault (60_exceptions.md R175). -/

namespace Sys2Proof.Machine

/-! Faults. -/

/-- The code of a fault kind (60_exceptions.md R171). -/
def FaultKind.code : FaultKind → Nat
  | .unsupportedOpcode => 1
  | .machineCodeCall => 2
  | .stackOverflow => 3
  | .stackUnderflow => 4
  | .memoryOutOfBounds => 5
  | .indexOverflow => 6
  | .fetchOutOfBounds => 7

/-- Raising a fault (60_exceptions.md R170, R174): the record is made, `status` becomes halted, nothing else changes. -/
def State.raise (s : State) (kind : FaultKind) (word : Option Word) (a : Word) (addr : Option Word) : State :=
  { s with status := .halted { kind := kind, word := word, pc := a, addr := addr } }

/-- A fault raised while instruction `i` executes: its word is `encode i`, and its address is `pc` - 2, since `pc`
holds the address plus 2 during the execute step (10_state.md R27). Assumption log 10. -/
def State.raiseFor (s : State) (i : Instr) (kind : FaultKind) (addr : Option Word) : State :=
  s.raise kind (some (encode i)) (s.pc - 2) addr

/-! register_file (R43). -/

/-- `V[x]` (R24). -/
def State.readV (s : State) (x : RegIdx) : Byte := s.v[x.toNat]'x.isLt

/-- `V[x] <- b` (R24). -/
def State.writeV (s : State) (x : RegIdx) (b : Byte) : State := { s with v := s.v.set x.toNat b x.isLt }

/-- `I <- w` (R26). -/
def State.writeI (s : State) (w : Word) : State := { s with i := w }

/-- The number of VF, the flag register (R25). -/
abbrev vf : RegIdx := 0xF

/-! program_counter (R44). -/

/-- `advance()`: pc <- pc + 2. -/
def State.advancePc (s : State) : State := { s with pc := s.pc + 2 }

/-- `load(t)`: pc <- t. -/
def State.loadPc (s : State) (t : Word) : State := { s with pc := t }

/-- `rewind()`: pc <- pc - 2. -/
def State.rewindPc (s : State) : State := { s with pc := s.pc - 2 }

/-- The `skip` primitive (00_scope.md R10): set the skip outcome when `c` holds. -/
def State.skipIf (s : State) (c : Bool) : State := { s with skip := c || s.skip }

/-! call_stack (R45). -/

/-- `Push(a)` (R30); none when the stack is full. -/
def State.push (s : State) (a : Word) : Option State :=
  if h : s.sp.val < 16 then
    some { s with stack := s.stack.set s.sp.val a h, sp := ⟨s.sp.val + 1, by omega⟩ }
  else none

/-- `Pop()` (R31); none when the stack is empty. The entry is left as it stands above the new depth. -/
def State.pop (s : State) : Option (Word × State) :=
  if h : 0 < s.sp.val then
    some (s.stack[s.sp.val - 1]'(by omega), { s with sp := ⟨s.sp.val - 1, by omega⟩ })
  else none

/-! Memory (20_memory.md). -/

/-- What an address with no entry reads as: the contents construction gives it (20_memory.md R61), the glyph table
at 0x50..0x9F and 0 elsewhere. -/
def unlistedByte (font : Vector Byte 80) (a : Nat) : Byte :=
  if h : 0x50 ≤ a ∧ a ≤ 0x9F then font[a - 0x50]'(by omega) else 0

/-- The entry of an address, if it has one. -/
def Memory.cellAt : Memory → Nat → Option Byte
  | [], _ => none
  | (k, b) :: rest, a => if k = a then some b else Memory.cellAt rest a

/-- The byte at an address. -/
def Memory.read (font : Vector Byte 80) (m : Memory) (a : Nat) : Byte :=
  (Memory.cellAt m a).getD (unlistedByte font a)

/-- Put an entry in its place in the rising list. -/
def Memory.putCell : Memory → Nat → Byte → Memory
  | [], a, b => [(a, b)]
  | (k, c) :: rest, a, b =>
    if a < k then (a, b) :: (k, c) :: rest
    else if a = k then (a, b) :: rest
    else (k, c) :: Memory.putCell rest a b

/-- Remove every entry of an address (a canonical memory has at most one). -/
def Memory.dropCell : Memory → Nat → Memory
  | [], _ => []
  | (k, c) :: rest, a => if k = a then Memory.dropCell rest a else (k, c) :: Memory.dropCell rest a

/-- Write a byte, keeping the canonical form: the byte an unlisted address reads as is not listed. -/
def Memory.write (font : Vector Byte 80) (m : Memory) (a : Nat) (b : Byte) : Memory :=
  if b = unlistedByte font a then Memory.dropCell m a else Memory.putCell m a b

/-- The canonical form of memory: addresses strictly rising, none outside 0x000..0xFFF, no entry equal to what an
unlisted address reads as. -/
abbrev Memory.wf (font : Vector Byte 80) (m : Memory) : Prop :=
  m.Pairwise (fun p q => p.1 < q.1) ∧ ∀ c ∈ m, c.1 ≤ 0xFFF ∧ c.2 ≠ unlistedByte font c.1

/-- `MemRead(a, 1)` (00_scope.md R10), after the instruction's range check (R11). -/
def State.byteAt (s : State) (a : Nat) : Byte := Memory.read s.cfg.font s.mem a

/-- `MemWrite(a, 1, b)` (00_scope.md R10), after the instruction's range check (R11): an address above 0xFFF, which no
checked access reaches, holds no byte and takes none. Assumption log 16. -/
def State.memWrite (s : State) (a : Nat) (b : Byte) : State :=
  { s with mem := if a ≤ 0xFFF then Memory.write s.cfg.font s.mem a b else s.mem }

/-- The big-endian word at `pc` (20_memory.md R67). -/
def State.fetchWord (s : State) : Word := wordOfBytes (s.byteAt s.pc.toNat) (s.byteAt (s.pc.toNat + 1))

/-! framebuffer_xor_write_unit (R46). -/

/-- Pixel (column `c`, row `r`): bit 63 - c of the row (R37). -/
def pixel (fb : FrameBuffer) (c : Fin 64) (r : Fin 32) : Bool := fb[r].getLsbD (63 - c.val)

/-- `clear()`: every row 0. -/
def clearedFB : FrameBuffer := Vector.replicate 32 0

/-- The mask of sprite byte `b` at start column `cx`: `(zext_64(b) << 56) >> cx` (40_display.md R101, R102). -/
def spriteMask (b : Byte) (cx : Nat) : Row := (b.setWidth 64 <<< 56) >>> cx

/-- `xorRow(r, m)`: the new framebuffer, and whether a lit pixel was under the mask. A row past 31 is dropped
(40_display.md R103). -/
def xorRow (fb : FrameBuffer) (r : Nat) (m : Row) : FrameBuffer × Bool :=
  if h : r < 32 then (fb.set r (fb[r] ^^^ m) h, (fb[r] &&& m) != 0) else (fb, false)

/-- The first `n` rows of the sprite at `base`, drawn in order from (cx, cy) (40_display.md R101): the framebuffer
and the collision so far. -/
def drawRows (s : State) (base cx cy : Nat) : Nat → FrameBuffer × Bool
  | 0 => (s.fb, false)
  | k + 1 =>
    let before := drawRows s base cx cy k
    let row := xorRow before.1 (cy + k) (spriteMask (s.byteAt (base + k)) cx)
    (row.1, before.2 || row.2)

/-- `FB <- f` and then `Emit(FB)` (10_state.md R38). -/
def State.showFB (s : State) (f : FrameBuffer) : State :=
  { s with fb := f, snapshots := s.snapshots ++ [f] }

/-! countdown_timer_pair (R47). -/

/-- `writeDT(b)`. -/
def State.writeDT (s : State) (b : Byte) : State := { s with dt := b }

/-- `writeST(b)`. -/
def State.writeST (s : State) (b : Byte) : State := { s with st := b }

/-- One tick of a counter: down by 1, floor 0 (60_exceptions.md R182, R183). -/
def countDown (b : Byte) : Byte := if b ≠ 0 then b - 1 else b

/-- `tickDT()` (60_exceptions.md R182). -/
def State.tickDT (s : State) : State := { s with dt := countDown s.dt }

/-- `tickST()` (60_exceptions.md R183). -/
def State.tickST (s : State) : State := { s with st := countDown s.st }

/-- The `tone` output: on while ST is not 0 (10_state.md R33). -/
def State.tone (s : State) : Bool := s.st != 0

/-! keypad_state_latch (R48). -/

/-- `enqueue(e)`: the host appends an event (60_exceptions.md R185). -/
def State.enqueue (s : State) (e : KeyEvent) : State := { s with keyq := s.keyq ++ [e] }

/-- The mask with only key `k`'s bit set. -/
def keyBit (k : Key) : BitVec 16 := 1#16 <<< k.toNat

/-- One event applied to the key mask (10_state.md R36). -/
def applyKey (keys : BitVec 16) : KeyEvent → BitVec 16
  | .pressed k => keys ||| keyBit k
  | .released k => keys &&& ~~~(keyBit k)

/-- `DrainKeys()` (10_state.md R36): every pending event applied, oldest first. -/
def State.drainKeys (s : State) : State := { s with keys := s.keyq.foldl applyKey s.keys, keyq := [] }

/-- `held(k)` (44_keypad_timer.md R160): bit k of `Keys` for k in 0..15, not held for k in 16..255. -/
def State.held (s : State) (k : Byte) : Bool := if k.toNat ≤ 15 then s.keys.getLsbD k.toNat else false

/-- `anyHeld()` (R48): the lowest-numbered held key. -/
def State.lowestHeld (s : State) : Option Nat := (List.range 16).find? (fun k => s.keys.getLsbD k)

/-! Random input (00_scope.md R7). -/

/-- `DrawRandom()` (00_scope.md R10): the byte of this draw. -/
def State.randomByte (s : State) : Byte := Config.randomByte s.draws

/-- One more byte has been drawn. -/
def State.countDraw (s : State) : State := { s with draws := s.draws + 1 }

end Sys2Proof.Machine
end

