-- ==== Sys2Proof/Machine/Flags.lean ====
section
/-! DEFINITION. The flag computations: VF is the only flag, always overwritten with 0 or 1 (10_state.md R25, 42_alu.md
R130), after the result. -/

namespace Sys2Proof.Machine

/-- A flag value: 0 or 1 (10_state.md R25). -/
def flagByte (b : Bool) : Byte := if b then 1 else 0

/-- The carry of an addition: the exact sum exceeds 255 (42_alu.md R137). -/
def carryOut (a b : Byte) : Bool := decide (255 < a.toNat + b.toNat)

/-- No borrow in `a - b`: minuend at least the subtrahend (42_alu.md R138, R140). -/
def noBorrow (a b : Byte) : Bool := decide (b.toNat ≤ a.toNat)

/-- The bit a right shift by one loses (42_alu.md R139). -/
def shiftedOutRight (b : Byte) : Bool := b.getLsbD 0

/-- The bit a left shift by one loses (42_alu.md R141). -/
def shiftedOutLeft (b : Byte) : Bool := b.getLsbD 7

/-- Write the result to V[x], then the flag to VF: with x = 0xF, VF ends holding the flag (10_state.md R25). -/
def State.writeVFlag (s : State) (x : RegIdx) (result : Byte) (flag : Bool) : State :=
  (s.writeV x result).writeV vf (flagByte flag)

end Sys2Proof.Machine
end

