-- ==== Sys2Proof/Machine/Operands.lean ====
section
/-! DEFINITION. The operand forms: the configured source registers (00_scope.md R6), the one data addressing mode
through I (43_index_memory.md R150), its bounds check (R153), and block transfers. -/

namespace Sys2Proof.Machine

/-- The value 8XY6 and 8XYE shift, by `SHIFT_SOURCE` (42_alu.md R139, R141). -/
def State.shiftOperand (s : State) (x y : RegIdx) : Byte :=
  match s.cfg.shiftSource with
  | .vy => s.readV y
  | .vx => s.readV x

/-- The register number BNNN's `x` names: nnn[11:8] (41_control_flow.md R119). -/
def addrX (nnn : Addr) : RegIdx := nnn.extractLsb' 8 4

/-- The offset BNNN adds, by `JUMP_BASE` (41_control_flow.md R119). -/
def State.jumpOffset (s : State) (nnn : Addr) : Byte :=
  match s.cfg.jumpBase with
  | .v0 => s.readV 0
  | .vx => s.readV (addrX nnn)

/-- The start column of a sprite: V[x] mod 64 (40_display.md R101). -/
def State.spriteColumn (s : State) (x : RegIdx) : Nat := (s.readV x).toNat % 64

/-- The start row of a sprite: V[y] mod 32 (40_display.md R101). -/
def State.spriteRow (s : State) (y : RegIdx) : Nat := (s.readV y).toNat % 32

/-- `CheckRange(lo, lo + len - 1)` (43_index_memory.md R153; with length 0, nothing is accessed, 40_display.md R101): the
lowest offending address, if the range leaves 0x000..0xFFF. -/
def checkRange (lo len : Nat) : Option Word :=
  if 0 < len ∧ 0xFFF < lo + len - 1 then some (BitVec.ofNat 16 (max lo 0x1000)) else none

/-- Whether the `len` bytes from I lie in memory (43_index_memory.md R150, R153). -/
def State.checkI (s : State) (len : Nat) : Option Word := checkRange s.i.toNat len

/-- `for k in 0..len-1: MemWrite(base + k, 1, V[k])` (43_index_memory.md R155). -/
def State.storeBlock (s : State) (base : Nat) : Nat → State
  | 0 => s
  | k + 1 => (s.storeBlock base k).memWrite (base + k) (s.readV (BitVec.ofNat 4 k))

/-- `for k in 0..len-1: V[k] <- MemRead(base + k, 1)` (43_index_memory.md R156). -/
def State.loadBlock (s : State) (base : Nat) : Nat → State
  | 0 => s
  | k + 1 => (s.loadBlock base k).writeV (BitVec.ofNat 4 k) (s.byteAt (base + k))

/-- `if MEMORY_INCREMENTS_I: I <- I + len` (43_index_memory.md R155, R156). -/
def State.incrementI (s : State) (len : Nat) : State :=
  if s.cfg.memoryIncrementsI then s.writeI (s.i + BitVec.ofNat 16 len) else s

/-- The glyph address of a digit (43_index_memory.md R154): 0x50 + 5 * (v & 0xF). -/
def glyphAddress (b : Byte) : Word := 0x50 + 5 * (b &&& 0xF).setWidth 16

/-- The three decimal digits of a byte, hundreds first (43_index_memory.md R157). -/
def bcdHundreds (b : Byte) : Byte := b / 100
/-- The tens digit (43_index_memory.md R157). -/
def bcdTens (b : Byte) : Byte := b / 10 % 10
/-- The units digit (43_index_memory.md R157). -/
def bcdUnits (b : Byte) : Byte := b % 10

end Sys2Proof.Machine
end

