-- ==== Sys2Proof/Machine/Alu.lean ====
section
/-! DEFINITION. Register and ALU instructions (42_alu.md). Every operand is read before any write (00_scope.md R11); a
result wraps modulo 256 (R130). -/

namespace Sys2Proof.Machine

/-- `6XNN` (R131). -/
def execLdImm (x : RegIdx) (nn : Byte) (s : State) : Answer := .next (s.writeV x nn)

/-- `7XNN` (R132): no flag. -/
def execAddImm (x : RegIdx) (nn : Byte) (s : State) : Answer := .next (s.writeV x (s.readV x + nn))

/-- `8XY0` (R133). -/
def execLdReg (x y : RegIdx) (s : State) : Answer := .next (s.writeV x (s.readV y))

/-- `8XY1` (R134): no flag. -/
def execOrReg (x y : RegIdx) (s : State) : Answer := .next (s.writeV x (s.readV x ||| s.readV y))

/-- `8XY2` (R135): no flag. -/
def execAndReg (x y : RegIdx) (s : State) : Answer := .next (s.writeV x (s.readV x &&& s.readV y))

/-- `8XY3` (R136): no flag. -/
def execXorReg (x y : RegIdx) (s : State) : Answer := .next (s.writeV x (s.readV x ^^^ s.readV y))

/-- `8XY4` (R137): VF is the carry. -/
def execAddReg (x y : RegIdx) (s : State) : Answer :=
  .next (s.writeVFlag x (s.readV x + s.readV y) (carryOut (s.readV x) (s.readV y)))

/-- `8XY5` (R138): Vx - Vy, VF is no borrow. -/
def execSubReg (x y : RegIdx) (s : State) : Answer :=
  .next (s.writeVFlag x (s.readV x - s.readV y) (noBorrow (s.readV x) (s.readV y)))

/-- `8XY6` (R139): shift right by one, VF is the bit shifted out. -/
def execShr (x y : RegIdx) (s : State) : Answer :=
  .next (s.writeVFlag x (s.shiftOperand x y >>> 1) (shiftedOutRight (s.shiftOperand x y)))

/-- `8XY7` (R140): Vy - Vx, VF is no borrow. -/
def execSubn (x y : RegIdx) (s : State) : Answer :=
  .next (s.writeVFlag x (s.readV y - s.readV x) (noBorrow (s.readV y) (s.readV x)))

/-- `8XYE` (R141): shift left by one, VF is the bit shifted out. -/
def execShl (x y : RegIdx) (s : State) : Answer :=
  .next (s.writeVFlag x (s.shiftOperand x y <<< 1) (shiftedOutLeft (s.shiftOperand x y)))

/-- `CXNN` (R143): the random byte of this draw ANDed with nn. -/
def execRnd (x : RegIdx) (nn : Byte) (s : State) : Answer := .next ((s.writeV x (s.randomByte &&& nn)).countDraw)

end Sys2Proof.Machine
end

