-- ==== Sys2Proof/Machine/ControlFlow.lean ====
section
/-! DEFINITION. Control-flow instructions (41_control_flow.md). When a meaning runs, `pc` is the address of the
instruction plus 2 (10_state.md R27). -/

namespace Sys2Proof.Machine

/-- `0NNN` (R110): always raises MachineCodeCall. -/
def execSys (nnn : Addr) (s : State) : Answer := .next (s.raiseFor (.sys nnn) .machineCodeCall none)

/-- `00EE` (R111): pc <- Pop(), or StackUnderflow. -/
def execRet (s : State) : Answer :=
  match s.pop with
  | some (t, s') => .next (s'.loadPc t)
  | none => .next (s.raiseFor .ret .stackUnderflow none)

/-- `1NNN` (R112): pc <- nnn. -/
def execJp (nnn : Addr) (s : State) : Answer := .next (s.loadPc (nnn.setWidth 16))

/-- `2NNN` (R113): Push(pc), then pc <- nnn, or StackOverflow. -/
def execCall (nnn : Addr) (s : State) : Answer :=
  match s.push s.pc with
  | some s' => .next (s'.loadPc (nnn.setWidth 16))
  | none => .next (s.raiseFor (.call nnn) .stackOverflow none)

/-- `3XNN` (R114): skip if V[x] = nn. -/
def execSeImm (x : RegIdx) (nn : Byte) (s : State) : Answer := .next (s.skipIf (s.readV x == nn))

/-- `4XNN` (R115): skip if V[x] ≠ nn. -/
def execSneImm (x : RegIdx) (nn : Byte) (s : State) : Answer := .next (s.skipIf (s.readV x != nn))

/-- `5XY0` (R116): skip if V[x] = V[y]. -/
def execSeReg (x y : RegIdx) (s : State) : Answer := .next (s.skipIf (s.readV x == s.readV y))

/-- `9XY0` (R117): skip if V[x] ≠ V[y]. -/
def execSneReg (x y : RegIdx) (s : State) : Answer := .next (s.skipIf (s.readV x != s.readV y))

/-- `BNNN` (R119): pc <- nnn + the offset register, not reduced modulo 4096. -/
def execJpV0 (nnn : Addr) (s : State) : Answer :=
  .next (s.loadPc (nnn.setWidth 16 + (s.jumpOffset nnn).setWidth 16))

end Sys2Proof.Machine
end

