-- ==== Sys2Proof/Machine/Display.lean ====
section
/-! DEFINITION. Display instructions (40_display.md). -/

namespace Sys2Proof.Machine

/-- `00E0` (R100): the framebuffer cleared, one snapshot. -/
def execCls (s : State) : Answer := .next (s.showFB clearedFB)

/-- `DXYN` (R101): all n sprite bytes are range-checked first; the sprite is XORed in row by row, VF takes the
collision, one snapshot. -/
def execDrw (x y : RegIdx) (n : Nibble) (s : State) : Answer :=
  match s.checkI n.toNat with
  | some addr => .next (s.raiseFor (.drw x y n) .memoryOutOfBounds (some addr))
  | none =>
    let drawn := drawRows s s.i.toNat (s.spriteColumn x) (s.spriteRow y) n.toNat
    .next ((s.writeV vf (flagByte drawn.2)).showFB drawn.1)

end Sys2Proof.Machine
end

