-- ==== Sys2Proof/Machine/IndexMemory.lean ====
section
/-! DEFINITION. Index-register and memory instructions (43_index_memory.md). Every address is checked before any
write (R153). -/

namespace Sys2Proof.Machine

/-- `ANNN` (R151): I <- nnn. -/
def execLdI (nnn : Addr) (s : State) : Answer := .next (s.writeI (nnn.setWidth 16))

/-- `FX1E` (R152): I <- I + V[x], or IndexOverflow when the exact sum exceeds 0xFFFF. VF is not touched. -/
def execAddI (x : RegIdx) (s : State) : Answer :=
  if 0xFFFF < s.i.toNat + (s.readV x).toNat then .next (s.raiseFor (.addI x) .indexOverflow none)
  else .next (s.writeI (s.i + (s.readV x).setWidth 16))

/-- `FX29` (R154): I <- the glyph of the digit V[x] & 0xF. -/
def execLdF (x : RegIdx) (s : State) : Answer := .next (s.writeI (glyphAddress (s.readV x)))

/-- `FX33` (R157): the three decimal digits of V[x] at I..I+2. -/
def execLdB (x : RegIdx) (s : State) : Answer :=
  match s.checkI 3 with
  | some addr => .next (s.raiseFor (.ldB x) .memoryOutOfBounds (some addr))
  | none =>
    .next (((s.memWrite s.i.toNat (bcdHundreds (s.readV x))).memWrite (s.i.toNat + 1)
      (bcdTens (s.readV x))).memWrite (s.i.toNat + 2) (bcdUnits (s.readV x)))

/-- `FX55` (R155): V0..Vx stored at I..I+x, then I advanced by x + 1 under `MEMORY_INCREMENTS_I`. -/
def execStoreRegs (x : RegIdx) (s : State) : Answer :=
  match s.checkI (x.toNat + 1) with
  | some addr => .next (s.raiseFor (.storeRegs x) .memoryOutOfBounds (some addr))
  | none => .next ((s.storeBlock s.i.toNat (x.toNat + 1)).incrementI (x.toNat + 1))

/-- `FX65` (R156): V0..Vx loaded from I..I+x, then I advanced by x + 1 under `MEMORY_INCREMENTS_I`. -/
def execLoadRegs (x : RegIdx) (s : State) : Answer :=
  match s.checkI (x.toNat + 1) with
  | some addr => .next (s.raiseFor (.loadRegs x) .memoryOutOfBounds (some addr))
  | none => .next ((s.loadBlock s.i.toNat (x.toNat + 1)).incrementI (x.toNat + 1))

end Sys2Proof.Machine
end

