-- ==== Sys2Proof/Machine/KeypadTimer.lean ====
section
/-! DEFINITION. Keypad and timer instructions (44_keypad_timer.md). -/

namespace Sys2Proof.Machine

/-- `EX9E` (R161): skip if key V[x] is held. -/
def execSkp (x : RegIdx) (s : State) : Answer := .next (s.skipIf (s.held (s.readV x)))

/-- `EXA1` (R162): skip if key V[x] is not held. -/
def execSknp (x : RegIdx) (s : State) : Answer := .next (s.skipIf (!s.held (s.readV x)))

/-- `FX0A` (R163): V[x] <- the lowest held key, or pc back to this instruction when none is held. -/
def execLdVxK (x : RegIdx) (s : State) : Answer :=
  match s.lowestHeld with
  | some k => .next (s.writeV x (BitVec.ofNat 8 k))
  | none => .next s.rewindPc

/-- `FX07` (R164): V[x] <- DT. -/
def execLdVxDT (x : RegIdx) (s : State) : Answer := .next (s.writeV x s.dt)

/-- `FX15` (R165): DT <- V[x]. -/
def execLdDTVx (x : RegIdx) (s : State) : Answer := .next (s.writeDT (s.readV x))

/-- `FX18` (R166): ST <- V[x]; the tone follows ST. -/
def execLdSTVx (x : RegIdx) (s : State) : Answer := .next (s.writeST (s.readV x))

end Sys2Proof.Machine
end

