-- ==== Sys2Proof/Machine/Engine.lean ====
section
/-! DEFINITION. The engine cycle (10_state.md R22, R23), the agents' moves (60_exceptions.md R180) and the
schedule they are made on (R180, R181). -/

namespace Sys2Proof.Machine

/-- R22 step 5, which does not run once a fault has halted the engine (R23). -/
def State.endCycle (s : State) : State :=
  match s.status with
  | .running => if s.skip then s.advancePc else s
  | .halted _ => s

/-- Step 5 after what the execute step answered. -/
def finishCycle : Answer → Answer
  | .next s => .next s.endCycle
  | .fault r => .fault r
  | .refused r => .refused r

/-- R22 steps 2 (the advance) to 5 for the word `w` fetched at `pc`. -/
def decodeAndExecute (w : Word) (s : State) : Answer :=
  match decode w with
  | .unsupported _ => .next (s.advancePc.raise .unsupportedOpcode (some w) s.pc none)
  | .instr i => finishCycle (exec i { s.advancePc with skip := false })

/-- R22 step 2 on: the fetch check, then the word at `pc`. -/
def State.fetchAndExecute (s : State) : Answer :=
  if 0xFFF < s.pc.toNat + 1 then .next (s.raise .fetchOutOfBounds none s.pc none)
  else decodeAndExecute s.fetchWord s

/-- One engine cycle (R22): drain the key events, fetch, decode, execute, skip. -/
def cycle (s : State) : Answer := s.drainKeys.fetchAndExecute

/-- The engine's scheduled move: a cycle while running; a halted engine runs no cycle (60_exceptions.md R175), and the
schedule goes on. Assumption log 7. -/
def engineMove (s : State) : Answer :=
  match s.status with
  | .running => cycle s
  | .halted _ => .next s

/-- One agent's move (60_exceptions.md R180, R182, R183, R185, R189). -/
def runMove (m : AgentMove) (s : State) : Answer :=
  match m with
  | .engine => engineMove s
  | .tickDT => .next s.tickDT
  | .tickST => .next s.tickST
  | .key e => .next (s.enqueue e)
  | .terminate => .refused .hostTerminated

/-- The move due at the end of round `n`, each of the three standing agents in turn: so every one of them moves again and
again (60_exceptions.md R181). -/
def dueMoveOfRound (n : Nat) : AgentMove :=
  match n % 3 with
  | 0 => .engine
  | 1 => .tickDT
  | _ => .tickST

/-- Round `n` of a schedule whose other moves are `others`: those of the round, without a termination (a run that the
host ends is no infinite run, R189), then the due move. Assumption log 23. -/
def roundMoves (others : Nat → List AgentMove) (n : Nat) : List AgentMove :=
  (others n).filter (fun m => m != .terminate) ++ [dueMoveOfRound n]

/-- The state with the next round of the free schedule on the agenda, where the agenda is used up. -/
def State.refill (s : State) : State :=
  match s.agenda, s.supply with
  | [], .free n => { s with agenda := roundMoves Config.otherMoves n, supply := .free (n + 1) }
  | [], .engineAlone => s
  | _ :: _, _ => s

/-- With no move left to schedule the engine cycles; a halted engine then has no step, and the machine stops with the
fault record. Assumption log 2, 6. -/
def State.unscheduled (s : State) : Answer :=
  match s.status with
  | .running => cycle s
  | .halted r => .fault (.engineHalted r)

/-- The schedule's next move, from a state whose agenda is refilled. -/
def State.makeMove (s : State) : Answer :=
  match s.agenda with
  | [] => s.unscheduled
  | m :: rest => runMove m { s with agenda := rest }

/-- The next atomic step of the machine (60_exceptions.md R180): the schedule's next move. -/
def nextMove (s : State) : Answer := s.refill.makeMove

/-- Place an instruction word big-endian at `a` and `a` + 1. -/
def State.placeWord (s : State) (a : Nat) (w : Word) : State :=
  (s.memWrite a (highByte w)).memWrite (a + 1) (lowByte w)

/-- Make the engine's next cycle the next step: running, a cycle the one move on the agenda, and `pc` where a word can be
fetched (0x200, the entry point, if it is not). Assumption log 15. -/
def State.readyToFetch (s : State) : State :=
  { s with status := .running, agenda := [.engine], pc := if 0xFFF < s.pc.toNat + 1 then 0x200 else s.pc }

end Sys2Proof.Machine
end

