-- ==== Sys2Proof/Machine/Step.lean ====
section
/-! DEFINITION. The step, and the state in which the next step fetches a given instruction. -/

namespace Sys2Proof.Machine

/-- One atomic step of the machine (60_exceptions.md R180). -/
def step (s : State) : Host.Outcome State Fault Refusal := nextMove s

/-- `s` with the instruction of a table row's bits stored where the next step fetches it. -/
def State.withFetchWord (s : State) (nbits w : Nat) : State :=
  s.readyToFetch.placeWord s.readyToFetch.pc.toNat (tableWord nbits w)

end Sys2Proof.Machine
end

