-- ==== Sys2Proof/Machine/Boot.lean ====
section
/-! DEFINITION. Construction: `init` (20_memory.md R64 to R66), the only way to a running machine
(70_reset_and_hazards.md R201). -/

namespace Sys2Proof.Machine

/-- What `init` returns: a constructed machine, or the load-time error (R65). -/
inductive InitResult where
  | machine (s : State)
  | programTooBig (actual allowed : Nat)
deriving DecidableEq, Repr

/-- The bytes of `p` written one by one from address `a`. -/
def State.placeBytes (s : State) (a : Nat) : List Byte → State
  | [] => s
  | b :: p => (s.memWrite a b).placeBytes (a + 1) p

/-- `init(P)` (R64) for a configuration (00_scope.md R6) and the moves first ahead in the schedule, which goes
on freely after them. -/
def init (cfg : Config) (agenda : List AgentMove) (p : List Byte) : InitResult :=
  if progMax < p.length then .programTooBig p.length progMax
  else .machine { (State.construct cfg).placeBytes progBase p with agenda := agenda }

end Sys2Proof.Machine
end

