-- ==== Sys2Proof/Safety.lean ====
section
/-! DEFINITION. The terms in which claims about the machine are written: frames, encodings, the engine's turn, the
invariant of every reachable state, and what a run without a fault, an infinite run and a fair one are. -/

namespace Sys2Proof

open Machine

/-- No byte of memory reads differently. -/
def SameBytes (s t : State) : Prop := ∀ a, t.byteAt a = s.byteAt a

/-- Nothing changes but general registers, and of those only the ones listed. -/
def OnlyRegsChange (dests : List RegIdx) (s t : State) : Prop :=
  t = { s with v := t.v } ∧ (∀ r, r ∉ dests → t.readV r = s.readV r) ∧ SameBytes s t

/-- Execution of an instruction whose word is `w` raised a fault: the engine is halted with the record of
60_exceptions.md R170, whose pc is the instruction's address, and nothing else changed. -/
def FaultRaised (kind : FaultKind) (w : Word) (addr : Option Word) (s t : State) : Prop :=
  t = { s with status := .halted { kind := kind, word := some w, pc := s.pc - 2, addr := addr } } ∧ SameBytes s t

/-- Every word that matches a row of the opcode table decodes to that row's instruction (30_encoding.md R91). -/
def DecodesRow (mask bits : Word) (instr : Word → Instr) : Prop :=
  ∀ w : Word, w &&& mask = bits → decode w = .instr (instr w)

/-- It is the running engine's turn, and `rest` is the agenda after it (60_exceptions.md R180). -/
def EnginesTurn (s : State) (rest : List AgentMove) : Prop :=
  s.status = .running ∧ (s.refill.agenda = .engine :: rest ∨ (s.refill.agenda = [] ∧ rest = []))

/-- The state in which the execute step of the engine's cycle starts (10_state.md R22 steps 1, 2, 4). -/
def atExecute (s : State) (rest : List AgentMove) : State :=
  { s with
    agenda := rest, supply := s.refill.supply, keys := s.keyq.foldl applyKey s.keys, keyq := [], pc := s.pc + 2
    skip := false }

/-- The key a key event names (10_state.md R35). -/
def keyOf : KeyEvent → Key
  | .pressed k => k
  | .released k => k

/-- Whether a key event is a press. -/
def isPress : KeyEvent → Bool
  | .pressed _ => true
  | .released _ => false

/-- For an instruction that skips on a condition, whether the condition holds (41_control_flow.md R114 to R117,
44_keypad_timer.md R160 to R162); none for every other instruction. -/
def skipCondition (s : State) : Instr → Option Prop
  | .seImm x nn => some (s.readV x = nn)
  | .sneImm x nn => some (s.readV x ≠ nn)
  | .seReg x y => some (s.readV x = s.readV y)
  | .sneReg x y => some (s.readV x ≠ s.readV y)
  | .skp x => some ((s.readV x).toNat < 16 ∧ s.keys.getLsbD (s.readV x).toNat = true)
  | .sknp x => some (¬((s.readV x).toNat < 16 ∧ s.keys.getLsbD (s.readV x).toNat = true))
  | _ => none

/-- The general registers an instruction may write (10_state.md R24, R25). -/
def writesReg (i : Instr) (r : RegIdx) : Prop :=
  match i with
  | .ldImm x _ | .addImm x _ | .ldReg x _ | .orReg x _ | .andReg x _ | .xorReg x _ | .rnd x _ | .ldVxDT x
  | .ldVxK x => r = x
  | .addReg x _ | .subReg x _ | .shr x _ | .subn x _ | .shl x _ => r = x ∨ r = 0xF
  | .drw _ _ _ => r = 0xF
  | .loadRegs x => r.toNat ≤ x.toNat
  | _ => False

/-- The instructions that have a fault of their own (60_exceptions.md R171). -/
def mayFault (i : Instr) : Prop :=
  match i with
  | .sys _ | .ret | .call _ | .addI _ | .drw _ _ _ | .ldB _ | .storeRegs _ | .loadRegs _ => True
  | _ => False

/-- Where each kind of fault may come from (60_exceptions.md R171, R173): `w` is the word at `pc` before the cycle. -/
def FaultCause (s : State) (w : Word) (r : FaultRecord) : Prop :=
  match r.kind with
  | .fetchOutOfBounds => 0xFFF < s.pc.toNat + 1
  | .unsupportedOpcode => decode w = .unsupported w
  | .machineCodeCall => ∃ nnn, decode w = .instr (.sys nnn)
  | .stackOverflow => (∃ nnn, decode w = .instr (.call nnn)) ∧ s.sp.val = 16
  | .stackUnderflow => decode w = .instr .ret ∧ s.sp.val = 0
  | .indexOverflow => ∃ x, decode w = .instr (.addI x) ∧ 0xFFFF < s.i.toNat + (s.readV x).toNat
  | .memoryOutOfBounds =>
    r.addr = some (BitVec.ofNat 16 (max s.i.toNat 0x1000)) ∧
      ((∃ x y n, decode w = .instr (.drw x y n) ∧ 0 < n.toNat ∧ 0xFFF < s.i.toNat + n.toNat - 1)
        ∨ (∃ x, decode w = .instr (.ldB x) ∧ 0xFFF < s.i.toNat + 2)
        ∨ (∃ x, (decode w = .instr (.storeRegs x) ∨ decode w = .instr (.loadRegs x))
            ∧ 0xFFF < s.i.toNat + x.toNat))

/-- A fault record has the columns its kind has in 60_exceptions.md R171. -/
def recordColumns (r : FaultRecord) : Prop :=
  (r.word = none ↔ r.kind = .fetchOutOfBounds) ∧ (r.addr = none ↔ r.kind ≠ .memoryOutOfBounds)
    ∧ ∀ a, r.addr = some a → 0x1000 ≤ a.toNat

/-- The invariant of every reachable state: memory is canonical; `pc` has not passed 0x10FE (10_state.md R28); every
held return address is some call's address plus 2 (41_control_flow.md R111); a fault record has its kind's columns. -/
structure Inv (s : State) : Prop where
  memory : Memory.wf s.cfg.font s.mem
  pcBound : s.pc.toNat ≤ 0x10FE
  returns : ∀ k : Fin 16, k.val < s.sp.val → s.stack[k].toNat ≤ 0x1000
  record : ∀ r, s.status = .halted r → recordColumns r

/-- A run of `k` steps that records no fault (60_exceptions.md R194): every step answers a next state that is running. -/
def NoFaultWithin : Nat → State → Prop
  | 0, s => s.status = .running
  | k + 1, s => s.status = .running ∧ ∃ t, step s = .next t ∧ NoFaultWithin k t

/-- The moves of a schedule made one after another (60_exceptions.md R180). -/
def runMoves : List AgentMove → State → Answer
  | [], s => .next s
  | m :: ms, s =>
    match runMove m s with
    | .next t => runMoves ms t
    | .fault r => .fault r
    | .refused r => .refused r

/-- The move the step from `s` makes (60_exceptions.md R180): the schedule's next, or the engine's where no move is left
to schedule. -/
def movesNext (s : State) : AgentMove :=
  match s.refill.agenda with
  | [] => .engine
  | m :: _ => m

/-- An infinite run of the machine, state by state. -/
def IsRun (tr : Nat → State) : Prop := ∀ k, step (tr k) = .next (tr (k + 1))

/-- Something happens infinitely often. -/
def AgainAndAgain (p : Nat → Prop) : Prop := ∀ k, ∃ j, k ≤ j ∧ p j

/-- The fairness of 60_exceptions.md R181: in an infinite run each of the delay timer, the sound timer and, while it is
running, the engine takes infinitely many steps. -/
def FairRun (tr : Nat → State) : Prop :=
  AgainAndAgain (fun k => movesNext (tr k) = .tickDT) ∧ AgainAndAgain (fun k => movesNext (tr k) = .tickST)
    ∧ ((∀ k, (tr k).status = .running) → AgainAndAgain (fun k => movesNext (tr k) = .engine))

/-- An infinite interleaving in which each standing agent moves infinitely often and that no termination ends
(60_exceptions.md R180, R181, R189). -/
def FairSchedule (moves : Nat → AgentMove) : Prop :=
  (∀ k, moves k ≠ .terminate) ∧ AgainAndAgain (fun k => moves k = .engine)
    ∧ AgainAndAgain (fun k => moves k = .tickDT) ∧ AgainAndAgain (fun k => moves k = .tickST)

end Sys2Proof
end

