-- ==== Sys2Proof/Certificates/Slice0/Obligations.lean ====
section
/-! DEFINITION. The statements for the provers. Each docstring names the rules of spec/ it formalises, and the
decision of 92_eei_decisions.md (the spec's own choice) it rests on where there is one. -/


open Sys2Proof Sys2Proof.Machine

/-! Encoding (30_encoding.md). -/

/-- R85 to R95 (the FX and 8XYn codes are general knowledge, 93_implementation_defined.md K3, K4): decoding the word
of a well-formed instruction gives the instruction back, with every operand at every value its field admits. -/
def Obligations.DecodeOfEncode : Prop :=
  ∀ i : Instr, i.wellFormed = true → decode (encode i) = .instr i

/-- R95 ("Each mnemonic form is exactly one encoding"; decisions D15, D26, general knowledge K3, K4): an instruction a
word decodes to is well-formed, and its encoding is that word. -/
def Obligations.EncodeOfDecode : Prop :=
  ∀ (w : Word) (i : Instr), decode w = .instr i → i.wellFormed = true ∧ encode i = w

/-- R92 (decision D15 for 5XYn and 9XYn): exactly the listed words are `Unsupported`, and decoding keeps the raw word.
-/
def Obligations.IllegalWords : Prop :=
  ∀ w : Word,
    (decode w = .unsupported w ↔
      ((w >>> 12 = 0x5 ∨ w >>> 12 = 0x9) ∧ w &&& 0xF ≠ 0)
      ∨ (w >>> 12 = 0x8 ∧ (w &&& 0xF) ∈ [0x8, 0x9, 0xA, 0xB, 0xC, 0xD, 0xF])
      ∨ (w >>> 12 = 0xE ∧ (w &&& 0xFF) ∉ [0x9E, 0xA1])
      ∨ (w >>> 12 = 0xF ∧ (w &&& 0xFF) ∉ [0x07, 0x0A, 0x15, 0x18, 0x1E, 0x29, 0x33, 0x55, 0x65]))
    ∧ ∀ u, decode w = .unsupported u → u = w

/-- R90: 0x00E0 and 0x00EE match on all 16 bits; every other word below 0x1000 is the machine-code call, and no other
word is. -/
def Obligations.MachineCodeCallWords : Prop :=
  ∀ w : Word,
    ((∃ nnn, decode w = .instr (.sys nnn)) ↔ w.toNat < 0x1000 ∧ w ≠ 0x00E0 ∧ w ≠ 0x00EE)
    ∧ (decode w = .instr .cls ↔ w = 0x00E0) ∧ (decode w = .instr .ret ↔ w = 0x00EE)

/-- R91: words written out from the opcode map, one or more of each family, decode to the instructions they stand for;
two illegal words do not decode (decision D15; general knowledge K3, K4). -/
def Obligations.SampleWordsDecode : Prop :=
  decodeTableWord 16 0x00E0 = some .cls ∧ decodeTableWord 16 0xD125 = some (.drw 1 2 5)
    ∧ decodeTableWord 16 0x2ABC = some (.call 0xABC) ∧ decodeTableWord 16 0x3342 = some (.seImm 3 0x42)
    ∧ decodeTableWord 16 0x812E = some (.shl 1 2) ∧ decodeTableWord 16 0x6A2F = some (.ldImm 0xA 0x2F)
    ∧ decodeTableWord 16 0xF165 = some (.loadRegs 1) ∧ decodeTableWord 16 0xA2F0 = some (.ldI 0x2F0)
    ∧ decodeTableWord 16 0xE1A1 = some (.sknp 1) ∧ decodeTableWord 16 0xF518 = some (.ldSTVx 5)
    ∧ decodeTableWord 16 0xF125 = none ∧ decodeTableWord 16 0x5121 = none

/-! Display (40_display.md). -/

/-- R100 (decision D20 for the snapshot): 00E0 clears every row, appends one snapshot, and changes nothing else. -/
def Obligations.ClsClearsDisplay : Prop :=
  DecodesRow 0xFFFF 0x00E0 (fun _ => .cls) ∧
  ∀ s : State, ∃ t, exec .cls s = .next t
    ∧ (∀ r : Fin 32, t.fb[r] = 0) ∧ t.snapshots = s.snapshots ++ [t.fb]
    ∧ t = { s with fb := t.fb, snapshots := t.snapshots } ∧ SameBytes s t

/-- R101 (decision D19 for n = 0 and for the check of dropped rows): DXYN XORs n rows from (V[x] mod 64, V[y] mod 32),
VF takes the collision, one snapshot is appended; or, when the n bytes leave memory, MemoryOutOfBounds is raised. -/
def Obligations.DrwDrawsSpriteRows : Prop :=
  DecodesRow 0xF000 0xD000 (fun w => .drw (w.extractLsb' 8 4) (w.extractLsb' 4 4) (w.extractLsb' 0 4)) ∧
  ∀ (x y : RegIdx) (n : Nibble) (s : State),
    (n = 0 ∨ s.i.toNat + n.toNat - 1 ≤ 0xFFF →
      ∃ t, exec (.drw x y n) s = .next t
        ∧ (∀ r : Fin 32, t.fb[r] =
            if (s.readV y).toNat % 32 ≤ r.val ∧ r.val < (s.readV y).toNat % 32 + n.toNat then
              s.fb[r] ^^^ (((s.byteAt (s.i.toNat + (r.val - (s.readV y).toNat % 32))).setWidth 64 <<< 56)
                >>> ((s.readV x).toNat % 64))
            else s.fb[r])
        ∧ ((∃ k : Nat, k < n.toNat ∧ ∃ h : (s.readV y).toNat % 32 + k < 32,
              s.fb[(s.readV y).toNat % 32 + k] &&& (((s.byteAt (s.i.toNat + k)).setWidth 64 <<< 56)
                >>> ((s.readV x).toNat % 64)) ≠ 0) → t.readV 0xF = 1)
        ∧ ((∀ k : Nat, k < n.toNat → ∀ h : (s.readV y).toNat % 32 + k < 32,
              s.fb[(s.readV y).toNat % 32 + k] &&& (((s.byteAt (s.i.toNat + k)).setWidth 64 <<< 56)
                >>> ((s.readV x).toNat % 64)) = 0) → t.readV 0xF = 0)
        ∧ t.snapshots = s.snapshots ++ [t.fb]
        ∧ (∀ r, r ≠ 0xF → t.readV r = s.readV r)
        ∧ t = { s with v := t.v, fb := t.fb, snapshots := t.snapshots } ∧ SameBytes s t)
    ∧ (n ≠ 0 → 0xFFF < s.i.toNat + n.toNat - 1 →
      ∃ t, exec (.drw x y n) s = .next t
        ∧ FaultRaised .memoryOutOfBounds
            (0xD000 ||| (x.setWidth 16 <<< 8) ||| (y.setWidth 16 <<< 4) ||| n.setWidth 16)
            (some (BitVec.ofNat 16 (max s.i.toNat 0x1000))) s t)

/-- R102 (derived), R103 (decision D19 for the premise): pixel by pixel, sprite bit k of row i falls on column cx + 7
- k and row cy + i; what falls past column 63 or row 31 is not drawn, wraps nowhere and cannot collide. -/
def Obligations.DrwClipsAtEdges : Prop :=
  ∀ (x y : RegIdx) (n : Nibble) (s : State), n = 0 ∨ s.i.toNat + n.toNat - 1 ≤ 0xFFF →
    ∃ t, exec (.drw x y n) s = .next t
      ∧ (∀ (c : Fin 64) (r : Fin 32), pixel t.fb c r =
          (pixel s.fb c r ^^
            (decide ((s.readV x).toNat % 64 ≤ c.val ∧ c.val < (s.readV x).toNat % 64 + 8
                ∧ (s.readV y).toNat % 32 ≤ r.val ∧ r.val < (s.readV y).toNat % 32 + n.toNat)
              && (s.byteAt (s.i.toNat + (r.val - (s.readV y).toNat % 32))).getLsbD
                  (7 - (c.val - (s.readV x).toNat % 64)))))
      ∧ (t.readV 0xF = 1 ↔ ∃ (c : Fin 64) (r : Fin 32), pixel s.fb c r = true ∧ pixel t.fb c r = false)

/-- R104 (its last part derived; decisions D14, D19): two identical draws in a row, at the same start position,
restore every pixel; the second sets VF = 1 exactly when the first lit a pixel that was dark. -/
def Obligations.DrawingTwiceRestores : Prop :=
  ∀ (x y : RegIdx) (n : Nibble) (s : State), n = 0 ∨ s.i.toNat + n.toNat - 1 ≤ 0xFFF →
    ∃ t, exec (.drw x y n) s = .next t
      ∧ ((t.readV x).toNat % 64 = (s.readV x).toNat % 64 → (t.readV y).toNat % 32 = (s.readV y).toNat % 32 →
          ∃ u, exec (.drw x y n) t = .next u ∧ u.fb = s.fb
            ∧ (u.readV 0xF = 1 ↔ ∃ (c : Fin 64) (r : Fin 32), pixel s.fb c r = false ∧ pixel t.fb c r = true)
            ∧ (u.readV 0xF = 0 ∨ u.readV 0xF = 1))

/-! Control flow (41_control_flow.md). -/

/-- R110 (decision D21 for the recorded pc): every 0NNN word but 00E0 and 00EE always raises MachineCodeCall, with its
word and its address. -/
def Obligations.SysRaisesMachineCodeCall : Prop :=
  (∀ w : Word, w &&& 0xF000 = 0x0000 → w ≠ 0x00E0 → w ≠ 0x00EE → decode w = .instr (.sys (w.extractLsb' 0 12))) ∧
  ∀ (nnn : Addr) (s : State), ∃ t, exec (.sys nnn) s = .next t
    ∧ FaultRaised .machineCodeCall (nnn.setWidth 16) none s t

/-- R111 (decision D3 for the width, D21 for the recorded pc): 00EE pops the return address into pc, or raises
StackUnderflow on an empty stack. -/
def Obligations.RetPopsReturnAddress : Prop :=
  DecodesRow 0xFFFF 0x00EE (fun _ => .ret) ∧
  ∀ s : State,
    (∀ h : 0 < s.sp.val, ∃ t, exec .ret s = .next t
      ∧ t.pc = s.stack[s.sp.val - 1]'(by omega) ∧ t.sp.val = s.sp.val - 1
      ∧ t = { s with pc := t.pc, sp := t.sp } ∧ SameBytes s t)
    ∧ (s.sp.val = 0 → ∃ t, exec .ret s = .next t ∧ FaultRaised .stackUnderflow 0x00EE none s t)

/-- R112: 1NNN loads pc with nnn and changes nothing else. -/
def Obligations.JpJumps : Prop :=
  DecodesRow 0xF000 0x1000 (fun w => .jp (w.extractLsb' 0 12)) ∧
  ∀ (nnn : Addr) (s : State), ∃ t, exec (.jp nnn) s = .next t
    ∧ t.pc.toNat = nnn.toNat ∧ t = { s with pc := t.pc } ∧ SameBytes s t

/-- R113 (decision D3 for the width, D21 for the recorded pc): 2NNN pushes the advanced pc and jumps, or raises
StackOverflow on the 17th nested call. -/
def Obligations.CallPushesReturnAddress : Prop :=
  DecodesRow 0xF000 0x2000 (fun w => .call (w.extractLsb' 0 12)) ∧
  ∀ (nnn : Addr) (s : State),
    (∀ h : s.sp.val < 16, ∃ t, exec (.call nnn) s = .next t
      ∧ t.stack[s.sp.val] = s.pc ∧ (∀ k : Fin 16, k.val ≠ s.sp.val → t.stack[k] = s.stack[k])
      ∧ t.sp.val = s.sp.val + 1 ∧ t.pc.toNat = nnn.toNat
      ∧ t = { s with pc := t.pc, stack := t.stack, sp := t.sp } ∧ SameBytes s t)
    ∧ (s.sp.val = 16 → ∃ t, exec (.call nnn) s = .next t
      ∧ FaultRaised .stackOverflow (0x2000 ||| nnn.setWidth 16) none s t)

/-- R113 with R111 (decision D3 for the width; "`2NNN` then `00EE` restores `pc`"): wherever the callee's pc has got
to, the return brings back the caller's pc and depth, and every entry the caller held. -/
def Obligations.CallThenRetRestores : Prop :=
  ∀ (nnn : Addr) (s : State), s.sp.val < 16 →
    ∃ t, exec (.call nnn) s = .next t
      ∧ ∀ p : Word, ∃ u, exec .ret { t with pc := p } = .next u
        ∧ u.pc = s.pc ∧ u.sp = s.sp ∧ (∀ k : Fin 16, k.val < s.sp.val → u.stack[k] = s.stack[k])
        ∧ u = { s with pc := u.pc, stack := u.stack, sp := u.sp } ∧ SameBytes s u

/-- R114 to R117: the four register skips set the cycle's skip outcome exactly when their condition holds, and change
nothing else. -/
def Obligations.RegisterSkips : Prop :=
  DecodesRow 0xF000 0x3000 (fun w => .seImm (w.extractLsb' 8 4) (w.extractLsb' 0 8)) ∧
  DecodesRow 0xF000 0x4000 (fun w => .sneImm (w.extractLsb' 8 4) (w.extractLsb' 0 8)) ∧
  DecodesRow 0xF00F 0x5000 (fun w => .seReg (w.extractLsb' 8 4) (w.extractLsb' 4 4)) ∧
  DecodesRow 0xF00F 0x9000 (fun w => .sneReg (w.extractLsb' 8 4) (w.extractLsb' 4 4)) ∧
  ∀ (x y : RegIdx) (nn : Byte) (s : State),
    exec (.seImm x nn) s = .next (if (s.readV x).toNat = nn.toNat then { s with skip := true } else s)
    ∧ exec (.sneImm x nn) s = .next (if (s.readV x).toNat = nn.toNat then s else { s with skip := true })
    ∧ exec (.seReg x y) s =
        .next (if (s.readV x).toNat = (s.readV y).toNat then { s with skip := true } else s)
    ∧ exec (.sneReg x y) s =
        .next (if (s.readV x).toNat = (s.readV y).toNat then s else { s with skip := true })

/-- R114 to R117, R161, R162 with R22 step 5 (derived in R114; decision D17 for keys of 16 or more; assumption log 2
for the schedule): a cycle that runs one of the six skips ends with pc = a + 4 when the condition holds (key tests see
the drained keys), else a + 2, whatever the skipped word is. -/
def Obligations.SkipPassesOverTwoBytes : Prop :=
  ∀ (s : State) (rest : List AgentMove) (i : Instr) (c : Prop), EnginesTurn s rest →
    s.pc.toNat + 1 ≤ 0xFFF → decode s.fetchWord = .instr i → skipCondition (atExecute s rest) i = some c →
    ∃ t, step s = .next t ∧ (c → t.pc.toNat = s.pc.toNat + 4) ∧ (¬c → t.pc.toNat = s.pc.toNat + 2)
      ∧ t = { atExecute s rest with pc := t.pc, skip := t.skip } ∧ SameBytes s t

/-- R119 (parameter JUMP_BASE; decisions D3, D11): BNNN loads pc with the exact sum of nnn and the offset register. -/
def Obligations.JpV0AddsOffset : Prop :=
  DecodesRow 0xF000 0xB000 (fun w => .jpV0 (w.extractLsb' 0 12)) ∧
  ∀ (nnn : Addr) (s : State), ∃ t, exec (.jpV0 nnn) s = .next t
    ∧ (s.cfg.jumpBase = .v0 → t.pc.toNat = nnn.toNat + (s.readV 0).toNat)
    ∧ (s.cfg.jumpBase = .vx → t.pc.toNat = nnn.toNat + (s.readV (nnn.extractLsb' 8 4)).toNat)
    ∧ t = { s with pc := t.pc } ∧ SameBytes s t

/-! Registers and arithmetic (42_alu.md). -/

/-- R131: 6XNN loads the immediate, VF as any other register. -/
def Obligations.LdImmLoads : Prop :=
  DecodesRow 0xF000 0x6000 (fun w => .ldImm (w.extractLsb' 8 4) (w.extractLsb' 0 8)) ∧
  ∀ (x : RegIdx) (nn : Byte) (s : State), ∃ t, exec (.ldImm x nn) s = .next t
    ∧ t.readV x = nn ∧ OnlyRegsChange [x] s t

/-- R132: 7XNN adds modulo 256 and sets no flag. -/
def Obligations.AddImmWrapsWithoutFlag : Prop :=
  DecodesRow 0xF000 0x7000 (fun w => .addImm (w.extractLsb' 8 4) (w.extractLsb' 0 8)) ∧
  ∀ (x : RegIdx) (nn : Byte) (s : State), ∃ t, exec (.addImm x nn) s = .next t
    ∧ (t.readV x).toNat = ((s.readV x).toNat + nn.toNat) % 256 ∧ OnlyRegsChange [x] s t

/-- R133: 8XY0 copies V[y] to V[x]. -/
def Obligations.LdRegCopies : Prop :=
  DecodesRow 0xF00F 0x8000 (fun w => .ldReg (w.extractLsb' 8 4) (w.extractLsb' 4 4)) ∧
  ∀ (x y : RegIdx) (s : State), ∃ t, exec (.ldReg x y) s = .next t
    ∧ t.readV x = s.readV y ∧ OnlyRegsChange [x] s t

/-- R134 to R136 (decision D13: VF unchanged unless x = 0xF): OR, AND and XOR, bit by bit. -/
def Obligations.LogicOpsBitwise : Prop :=
  DecodesRow 0xF00F 0x8001 (fun w => .orReg (w.extractLsb' 8 4) (w.extractLsb' 4 4)) ∧
  DecodesRow 0xF00F 0x8002 (fun w => .andReg (w.extractLsb' 8 4) (w.extractLsb' 4 4)) ∧
  DecodesRow 0xF00F 0x8003 (fun w => .xorReg (w.extractLsb' 8 4) (w.extractLsb' 4 4)) ∧
  ∀ (x y : RegIdx) (s : State),
    (∃ t, exec (.orReg x y) s = .next t
      ∧ (∀ k, k < 8 → ((t.readV x).getLsbD k = true ↔
          (s.readV x).getLsbD k = true ∨ (s.readV y).getLsbD k = true))
      ∧ OnlyRegsChange [x] s t)
    ∧ (∃ t, exec (.andReg x y) s = .next t
      ∧ (∀ k, k < 8 → ((t.readV x).getLsbD k = true ↔
          (s.readV x).getLsbD k = true ∧ (s.readV y).getLsbD k = true))
      ∧ OnlyRegsChange [x] s t)
    ∧ (∃ t, exec (.xorReg x y) s = .next t
      ∧ (∀ k, k < 8 → ((t.readV x).getLsbD k = true ↔
          (s.readV x).getLsbD k ≠ (s.readV y).getLsbD k))
      ∧ OnlyRegsChange [x] s t)

/-- R137 (decision D14 for the order at x = 0xF): 8XY4 wraps modulo 256; VF is 1 exactly when the exact sum exceeds
255, and it is the last write. -/
def Obligations.AddRegCarries : Prop :=
  DecodesRow 0xF00F 0x8004 (fun w => .addReg (w.extractLsb' 8 4) (w.extractLsb' 4 4)) ∧
  ∀ (x y : RegIdx) (s : State), ∃ t, exec (.addReg x y) s = .next t
    ∧ (x ≠ 0xF → (t.readV x).toNat = ((s.readV x).toNat + (s.readV y).toNat) % 256)
    ∧ t.readV 0xF = (if 255 < (s.readV x).toNat + (s.readV y).toNat then 1 else 0)
    ∧ OnlyRegsChange [x, 0xF] s t

/-- R138, R140 (general knowledge of 30_encoding.md R89 for which code is which; decision D14 at x = 0xF): the two
subtractions wrap modulo 256; VF is 1 exactly when there is no borrow. -/
def Obligations.SubtractionsFlagNoBorrow : Prop :=
  DecodesRow 0xF00F 0x8005 (fun w => .subReg (w.extractLsb' 8 4) (w.extractLsb' 4 4)) ∧
  DecodesRow 0xF00F 0x8007 (fun w => .subn (w.extractLsb' 8 4) (w.extractLsb' 4 4)) ∧
  ∀ (x y : RegIdx) (s : State),
    (∃ t, exec (.subReg x y) s = .next t
      ∧ (x ≠ 0xF → (t.readV x).toNat = ((s.readV x).toNat + 256 - (s.readV y).toNat) % 256)
      ∧ t.readV 0xF = (if (s.readV y).toNat ≤ (s.readV x).toNat then 1 else 0)
      ∧ OnlyRegsChange [x, 0xF] s t)
    ∧ (∃ t, exec (.subn x y) s = .next t
      ∧ (x ≠ 0xF → (t.readV x).toNat = ((s.readV y).toNat + 256 - (s.readV x).toNat) % 256)
      ∧ t.readV 0xF = (if (s.readV x).toNat ≤ (s.readV y).toNat then 1 else 0)
      ∧ OnlyRegsChange [x, 0xF] s t)

/-- R139, R141 (parameter SHIFT_SOURCE; decisions D10, D14; general knowledge K4): the two shifts by one of the
configured source, the bit shifted out in VF. -/
def Obligations.ShiftsMoveBitToVF : Prop :=
  DecodesRow 0xF00F 0x8006 (fun w => .shr (w.extractLsb' 8 4) (w.extractLsb' 4 4)) ∧
  DecodesRow 0xF00F 0x800E (fun w => .shl (w.extractLsb' 8 4) (w.extractLsb' 4 4)) ∧
  ∀ (x y src : RegIdx) (s : State),
    (s.cfg.shiftSource = .vy ∧ src = y) ∨ (s.cfg.shiftSource = .vx ∧ src = x) →
    (∃ t, exec (.shr x y) s = .next t
      ∧ (x ≠ 0xF → (t.readV x).toNat = (s.readV src).toNat / 2)
      ∧ (t.readV 0xF).toNat = (s.readV src).toNat % 2
      ∧ OnlyRegsChange [x, 0xF] s t)
    ∧ (∃ t, exec (.shl x y) s = .next t
      ∧ (x ≠ 0xF → (t.readV x).toNat = (s.readV src).toNat * 2 % 256)
      ∧ (t.readV 0xF).toNat = (s.readV src).toNat / 128
      ∧ OnlyRegsChange [x, 0xF] s t)

/-- R142 (derived; decision D14 at x = 0xF; general knowledge K4): the table of the 8XXn group, x = y, with every
configuration; at x = 0xF the flag is what VF ends with. -/
def Obligations.SameRegisterTable : Prop :=
  ∀ (x : RegIdx) (s : State),
    exec (.ldReg x x) s = .next s ∧ exec (.orReg x x) s = .next s ∧ exec (.andReg x x) s = .next s
    ∧ (∃ t, exec (.xorReg x x) s = .next t ∧ t.readV x = 0 ∧ OnlyRegsChange [x] s t)
    ∧ (∃ t, exec (.addReg x x) s = .next t ∧ (x ≠ 0xF → (t.readV x).toNat = 2 * (s.readV x).toNat % 256)
        ∧ (t.readV 0xF).toNat = (s.readV x).toNat / 128 ∧ OnlyRegsChange [x, 0xF] s t)
    ∧ (∃ t, exec (.subReg x x) s = .next t ∧ (x ≠ 0xF → t.readV x = 0) ∧ t.readV 0xF = 1
        ∧ OnlyRegsChange [x, 0xF] s t)
    ∧ (∃ t, exec (.shr x x) s = .next t ∧ (x ≠ 0xF → (t.readV x).toNat = (s.readV x).toNat / 2)
        ∧ (t.readV 0xF).toNat = (s.readV x).toNat % 2 ∧ OnlyRegsChange [x, 0xF] s t)
    ∧ (∃ t, exec (.subn x x) s = .next t ∧ (x ≠ 0xF → t.readV x = 0) ∧ t.readV 0xF = 1
        ∧ OnlyRegsChange [x, 0xF] s t)
    ∧ (∃ t, exec (.shl x x) s = .next t ∧ (x ≠ 0xF → (t.readV x).toNat = (s.readV x).toNat * 2 % 256)
        ∧ (t.readV 0xF).toNat = (s.readV x).toNat / 128 ∧ OnlyRegsChange [x, 0xF] s t)

/-- R143 (decision D23; the free value of assumption log 3): CXNN ANDs the byte of this draw with nn, whatever that
byte is, counts one draw, and changes nothing else. -/
def Obligations.RndMasksOneDraw : Prop :=
  DecodesRow 0xF000 0xC000 (fun w => .rnd (w.extractLsb' 8 4) (w.extractLsb' 0 8)) ∧
  ∀ (x : RegIdx) (nn : Byte) (s : State), ∃ t, exec (.rnd x nn) s = .next t
    ∧ t.readV x = Config.randomByte s.draws &&& nn ∧ (∀ k, nn.getLsbD k = false → (t.readV x).getLsbD k = false)
    ∧ t.draws = s.draws + 1 ∧ (∀ r, r ≠ x → t.readV r = s.readV r)
    ∧ t = { s with v := t.v, draws := t.draws } ∧ SameBytes s t

/-- 10_state.md R25 ("always overwrite, never accumulate"; decision D14): a flag-writing instruction that does not
name VF as an operand ends in the same state whatever VF held before, and the flag is 0 or 1. -/
def Obligations.FlagWritersOverwriteVF : Prop :=
  ∀ (x y : RegIdx) (n : Nibble) (b : Byte) (s : State) (i : Instr), x ≠ 0xF → y ≠ 0xF →
    i ∈ [Instr.addReg x y, .subReg x y, .shr x y, .subn x y, .shl x y, .drw x y n] →
    (∀ z w m, i = .drw z w m → m = 0 ∨ s.i.toNat + m.toNat - 1 ≤ 0xFFF) →
    ∃ t, exec i s = .next t ∧ exec i (s.writeV 0xF b) = .next t ∧ (t.readV 0xF = 0 ∨ t.readV 0xF = 1)

/-! Index register and memory (43_index_memory.md). -/

/-- R151: ANNN loads I with nnn. -/
def Obligations.LdILoads : Prop :=
  DecodesRow 0xF000 0xA000 (fun w => .ldI (w.extractLsb' 0 12)) ∧
  ∀ (nnn : Addr) (s : State), ∃ t, exec (.ldI nnn) s = .next t
    ∧ t.i.toNat = nnn.toNat ∧ t = { s with i := t.i } ∧ SameBytes s t

/-- R152 (decisions D4, D21, D36; general knowledge K3): FX1E adds exactly, leaves VF alone, and raises IndexOverflow
when the sum does not fit in 16 bits. -/
def Obligations.AddIAddsOrOverflows : Prop :=
  DecodesRow 0xF0FF 0xF01E (fun w => .addI (w.extractLsb' 8 4)) ∧
  ∀ (x : RegIdx) (s : State),
    (s.i.toNat + (s.readV x).toNat ≤ 0xFFFF → ∃ t, exec (.addI x) s = .next t
      ∧ t.i.toNat = s.i.toNat + (s.readV x).toNat ∧ t = { s with i := t.i } ∧ SameBytes s t)
    ∧ (0xFFFF < s.i.toNat + (s.readV x).toNat → ∃ t, exec (.addI x) s = .next t
      ∧ FaultRaised .indexOverflow (0xF01E ||| (x.setWidth 16 <<< 8)) none s t)

/-- R154 (decisions D18, D31; general knowledge K3, K9): FX29 points I at the glyph of V[x]'s low nibble. -/
def Obligations.LdFPointsAtGlyph : Prop :=
  DecodesRow 0xF0FF 0xF029 (fun w => .ldF (w.extractLsb' 8 4)) ∧
  ∀ (x : RegIdx) (s : State), ∃ t, exec (.ldF x) s = .next t
    ∧ t.i.toNat = 0x50 + 5 * ((s.readV x).toNat % 16) ∧ t = { s with i := t.i } ∧ SameBytes s t

/-- R157 (decisions D5, D21; general knowledge K3, K8): FX33 stores the three decimal digits, hundreds first, or
raises MemoryOutOfBounds and stores nothing. -/
def Obligations.LdBStoresDecimalDigits : Prop :=
  DecodesRow 0xF0FF 0xF033 (fun w => .ldB (w.extractLsb' 8 4)) ∧
  ∀ (x : RegIdx) (s : State),
    (s.i.toNat + 2 ≤ 0xFFF → ∃ t, exec (.ldB x) s = .next t
      ∧ (t.byteAt s.i.toNat).toNat = (s.readV x).toNat / 100
      ∧ (t.byteAt (s.i.toNat + 1)).toNat = (s.readV x).toNat / 10 % 10
      ∧ (t.byteAt (s.i.toNat + 2)).toNat = (s.readV x).toNat % 10
      ∧ (∀ a, a < s.i.toNat ∨ s.i.toNat + 2 < a → t.byteAt a = s.byteAt a)
      ∧ t = { s with mem := t.mem })
    ∧ (0xFFF < s.i.toNat + 2 → ∃ t, exec (.ldB x) s = .next t
      ∧ FaultRaised .memoryOutOfBounds (0xF033 ||| (x.setWidth 16 <<< 8))
          (some (BitVec.ofNat 16 (max s.i.toNat 0x1000))) s t)

/-- R155 (decisions D5, D21; parameter MEMORY_INCREMENTS_I, decision D12; general knowledge K3): FX55 stores V0..Vx at
I..I+x, advances I by x + 1 or leaves it, or raises MemoryOutOfBounds and stores nothing. -/
def Obligations.StoreRegsStoresBlock : Prop :=
  DecodesRow 0xF0FF 0xF055 (fun w => .storeRegs (w.extractLsb' 8 4)) ∧
  ∀ (x : RegIdx) (s : State),
    (s.i.toNat + x.toNat ≤ 0xFFF → ∃ t, exec (.storeRegs x) s = .next t
      ∧ (∀ r : RegIdx, r.toNat ≤ x.toNat → t.byteAt (s.i.toNat + r.toNat) = s.readV r)
      ∧ (∀ a, a < s.i.toNat ∨ s.i.toNat + x.toNat < a → t.byteAt a = s.byteAt a)
      ∧ t.i.toNat = (if s.cfg.memoryIncrementsI = true then s.i.toNat + x.toNat + 1 else s.i.toNat)
      ∧ t = { s with mem := t.mem, i := t.i })
    ∧ (0xFFF < s.i.toNat + x.toNat → ∃ t, exec (.storeRegs x) s = .next t
      ∧ FaultRaised .memoryOutOfBounds (0xF055 ||| (x.setWidth 16 <<< 8))
          (some (BitVec.ofNat 16 (max s.i.toNat 0x1000))) s t)

/-- R156 (decisions D5, D21; parameter MEMORY_INCREMENTS_I, decision D12; general knowledge K3): FX65 loads V0..Vx
from I..I+x, advances I by x + 1 or leaves it, or raises MemoryOutOfBounds and loads nothing. -/
def Obligations.LoadRegsLoadsBlock : Prop :=
  DecodesRow 0xF0FF 0xF065 (fun w => .loadRegs (w.extractLsb' 8 4)) ∧
  ∀ (x : RegIdx) (s : State),
    (s.i.toNat + x.toNat ≤ 0xFFF → ∃ t, exec (.loadRegs x) s = .next t
      ∧ (∀ r : RegIdx, r.toNat ≤ x.toNat → t.readV r = s.byteAt (s.i.toNat + r.toNat))
      ∧ (∀ r : RegIdx, x.toNat < r.toNat → t.readV r = s.readV r)
      ∧ t.i.toNat = (if s.cfg.memoryIncrementsI = true then s.i.toNat + x.toNat + 1 else s.i.toNat)
      ∧ t = { s with v := t.v, i := t.i } ∧ SameBytes s t)
    ∧ (0xFFF < s.i.toNat + x.toNat → ∃ t, exec (.loadRegs x) s = .next t
      ∧ FaultRaised .memoryOutOfBounds (0xF065 ||| (x.setWidth 16 <<< 8))
          (some (BitVec.ofNat 16 (max s.i.toNat 0x1000))) s t)

/-- R155 with R156 (decision D5; general knowledge K3): a block stored and loaded back through the same I, after any
change of V0..Vx, restores V0..Vx. -/
def Obligations.StoreThenLoadRestoresRegs : Prop :=
  ∀ (x : RegIdx) (s : State) (v : Vector Byte 16), s.i.toNat + x.toNat ≤ 0xFFF →
    ∃ t, exec (.storeRegs x) s = .next t ∧ ∃ u, exec (.loadRegs x) { t with i := s.i, v := v } = .next u
      ∧ (∀ r : RegIdx, r.toNat ≤ x.toNat → u.readV r = s.readV r) ∧ SameBytes t u

/-- 20_memory.md R60, R61 (the canonical form is the model's: assumption log 11): canonical memories that read alike
at every address of the space are the same data. -/
def Obligations.EqualReadsAreEqualMemories : Prop :=
  ∀ (font : Vector Byte 80) (m₁ m₂ : Memory), Memory.wf font m₁ → Memory.wf font m₂ →
    (∀ a, a ≤ 0xFFF → Memory.read font m₁ a = Memory.read font m₂ a) → m₁ = m₂

/-! Keypad and timers (44_keypad_timer.md). -/

/-- R160 to R162 (decision D17 for V[x] of 16 or more): the key skips test the held bit of key V[x]. -/
def Obligations.KeySkipsTestHeldKey : Prop :=
  DecodesRow 0xF0FF 0xE09E (fun w => .skp (w.extractLsb' 8 4)) ∧
  DecodesRow 0xF0FF 0xE0A1 (fun w => .sknp (w.extractLsb' 8 4)) ∧
  ∀ (x : RegIdx) (s : State),
    ((s.readV x).toNat < 16 ∧ s.keys.getLsbD (s.readV x).toNat = true →
      exec (.skp x) s = .next { s with skip := true } ∧ exec (.sknp x) s = .next s)
    ∧ (¬((s.readV x).toNat < 16 ∧ s.keys.getLsbD (s.readV x).toNat = true) →
      exec (.skp x) s = .next s ∧ exec (.sknp x) s = .next { s with skip := true })

/-- R163 (decision D16; general knowledge K3): FX0A takes the lowest held key, or goes back to itself when none is
held. -/
def Obligations.KeyWaitTakesLowestKey : Prop :=
  DecodesRow 0xF0FF 0xF00A (fun w => .ldVxK (w.extractLsb' 8 4)) ∧
  ∀ (x : RegIdx) (s : State),
    (s.keys ≠ 0 → ∃ t, exec (.ldVxK x) s = .next t
      ∧ (t.readV x).toNat < 16 ∧ s.keys.getLsbD (t.readV x).toNat = true
      ∧ (∀ j, j < (t.readV x).toNat → s.keys.getLsbD j = false) ∧ OnlyRegsChange [x] s t)
    ∧ (s.keys = 0 → exec (.ldVxK x) s = .next { s with pc := s.pc - 2 })

/-- R164, R165: FX07 reads the delay timer, FX15 writes it. -/
def Obligations.DelayTimerReadWrite : Prop :=
  DecodesRow 0xF0FF 0xF007 (fun w => .ldVxDT (w.extractLsb' 8 4)) ∧
  DecodesRow 0xF0FF 0xF015 (fun w => .ldDTVx (w.extractLsb' 8 4)) ∧
  ∀ (x : RegIdx) (s : State),
    (∃ t, exec (.ldVxDT x) s = .next t ∧ t.readV x = s.dt ∧ OnlyRegsChange [x] s t)
    ∧ (∃ t, exec (.ldDTVx x) s = .next t ∧ t.dt = s.readV x ∧ t = { s with dt := t.dt } ∧ SameBytes s t)

/-- R166 (decision D22 for the tone): FX18 writes the sound timer, and the tone is on at once exactly when the value
is not 0. -/
def Obligations.SoundTimerWriteSetsTone : Prop :=
  DecodesRow 0xF0FF 0xF018 (fun w => .ldSTVx (w.extractLsb' 8 4)) ∧
  ∀ (x : RegIdx) (s : State), ∃ t, exec (.ldSTVx x) s = .next t
    ∧ t.st = s.readV x ∧ (t.tone = true ↔ s.readV x ≠ 0) ∧ t = { s with st := t.st } ∧ SameBytes s t

/-! The machine (10_state.md, 20_memory.md, 60_exceptions.md, 70_reset_and_hazards.md). -/

/-- R22 (the schedule is the model's: assumption log 2): in the engine's turn, with a word to fetch that decodes to an
instruction, the step drains the key events, moves pc past the word, clears the skip outcome, runs exactly that
instruction, and adds 2 to pc when it set the skip outcome and raised no fault. -/
def Obligations.StepRunsDecodedInstruction : Prop :=
  ∀ (s t : State) (rest : List AgentMove) (i : Instr), EnginesTurn s rest → s.pc.toNat + 1 ≤ 0xFFF →
    decode (s.byteAt s.pc.toNat ++ s.byteAt (s.pc.toNat + 1)) = .instr i →
    exec i (atExecute s rest) = .next t →
    step s = .next (if t.status = .running ∧ t.skip = true then { t with pc := t.pc + 2 } else t)

/-- R68 with R22, R170 and R172 (decisions D3, D21 for the recorded pc; assumption log 2 for the schedule): a fetch
past the end of memory raises FetchOutOfBounds; the key events are drained, pc is not advanced and nothing else
changes but the schedule. -/
def Obligations.FetchPastEndFaults : Prop :=
  ∀ (s : State) (rest : List AgentMove), EnginesTurn s rest → 0xFFF < s.pc.toNat + 1 →
    ∃ t, step s = .next t
      ∧ t.status = .halted { kind := .fetchOutOfBounds, word := none, pc := s.pc, addr := none }
      ∧ t = { s with
          agenda := rest, supply := s.refill.supply, keys := s.keyq.foldl applyKey s.keys, keyq := []
          status := t.status }
      ∧ SameBytes s t

/-- R92 with R170 (decision D15 for 5XYn and 9XYn, D21 for the recorded pc): a word that is no instruction raises
UnsupportedOpcode with that word and its address. -/
def Obligations.UnsupportedWordFaults : Prop :=
  ∀ (s : State) (rest : List AgentMove) (u : Word), EnginesTurn s rest → s.pc.toNat + 1 ≤ 0xFFF →
    decode (s.byteAt s.pc.toNat ++ s.byteAt (s.pc.toNat + 1)) = .unsupported u →
    ∃ t, step s = .next t
      ∧ t.status = .halted ⟨.unsupportedOpcode, some (s.byteAt s.pc.toNat ++ s.byteAt (s.pc.toNat + 1)), s.pc, none⟩
      ∧ t = { s with
              agenda := rest, supply := s.refill.supply, keys := s.keyq.foldl applyKey s.keys, keyq := []
              pc := s.pc + 2, status := t.status }
      ∧ SameBytes s t

/-- R182, R183, R185 (decisions D22 for the tone, D21 for the halted engine; assumption log 2, 23): a scheduled tick
lowers its counter by one, floor 0, and a scheduled key event joins the end of the queue, whether the engine is
running or halted (R175); nothing else changes but the schedule. -/
def Obligations.OtherAgentsMove : Prop :=
  ∀ (s : State) (rest : List AgentMove) (e : KeyEvent),
    (s.refill.agenda = .tickDT :: rest → ∃ t, step s = .next t
      ∧ t.dt.toNat = s.dt.toNat - 1 ∧ t = { s with agenda := rest, supply := s.refill.supply, dt := t.dt } ∧ SameBytes s t)
    ∧ (s.refill.agenda = .tickST :: rest → ∃ t, step s = .next t
      ∧ t.st.toNat = s.st.toNat - 1 ∧ (t.tone = true ↔ 1 < s.st.toNat)
      ∧ t = { s with agenda := rest, supply := s.refill.supply, st := t.st } ∧ SameBytes s t)
    ∧ (s.refill.agenda = .key e :: rest →
        step s = .next { s with agenda := rest, supply := s.refill.supply, keyq := s.keyq ++ [e] })

/-- R184 ("after `n` ticks of the 60 Hz loop the counter is exactly `0`"): n ticks lower a counter by n, floor 0, and
later ticks leave it at 0 (the moves are the model's schedule: assumption log 2). -/
def Obligations.TicksReachZero : Prop :=
  ∀ (n : Nat) (s : State),
    (∃ t, runMoves (List.replicate n .tickDT) s = .next t ∧ t.dt.toNat = s.dt.toNat - n ∧ t = { s with dt := t.dt })
    ∧ (∃ t, runMoves (List.replicate n .tickST) s = .next t ∧ t.st.toNat = s.st.toNat - n
        ∧ t = { s with st := t.st })

/-- R36: the drain empties the queue, and each key is then held as its latest pending event says, or as before when no
event names it. -/
def Obligations.DrainLeavesLatestEvent : Prop :=
  ∀ (s : State) (k : Key),
    s.drainKeys.keyq = [] ∧ s.drainKeys = { s with keys := s.drainKeys.keys, keyq := [] }
    ∧ s.drainKeys.keys.getLsbD k.toNat =
        (match s.keyq.reverse.find? (fun e => keyOf e == k) with
          | some e => isPress e
          | none => s.keys.getLsbD k.toNat)

/-- R175 (decision D21; assumption log 6, 7): a halted engine never runs again: whatever is scheduled, a step changes
nothing but the timers, the key queue and the schedule; with no move left for any other agent the machine stops with
the fault record. -/
def Obligations.HaltedEngineNeverRuns : Prop :=
  ∀ (s : State) (r : FaultRecord), s.status = .halted r →
    (∀ t, step s = .next t → 
        t = { s with dt := t.dt, st := t.st, keyq := t.keyq, agenda := t.agenda, supply := t.supply })
    ∧ (s.agenda = [] → s.supply = .engineAlone → step s = .fault (.engineHalted r))

/-- R172 with R170 (decision D21 for the recorded pc; assumption log 2 for the schedule): faults are precise. A cycle
that ends in a fault leaves every piece of state as it was, but for the schedule, the drained keys, pc past the word
(not after FetchOutOfBounds), the status, and the skip outcome, which is no architectural state (R21, assumption log
9); the record holds the fetched word and its address. -/
def Obligations.FaultsArePrecise : Prop :=
  ∀ (s t : State) (rest : List AgentMove) (r : FaultRecord), EnginesTurn s rest →
    step s = .next t → t.status = .halted r →
    t = { s with
          agenda := rest, supply := s.refill.supply, keys := s.keyq.foldl applyKey s.keys, keyq := []
          pc := t.pc, skip := t.skip, status := .halted r }
    ∧ r.pc = s.pc
    ∧ (r.kind = .fetchOutOfBounds → t.pc = s.pc ∧ r.word = none)
    ∧ (r.kind ≠ .fetchOutOfBounds →
        t.pc = s.pc + 2 ∧ r.word = some (s.byteAt s.pc.toNat ++ s.byteAt (s.pc.toNat + 1)))
    ∧ recordColumns r ∧ SameBytes s t

/-- R171, R173 (decisions D3, D4, D5, D15, D19; D21 for the codes): each kind of fault is raised only by the
instructions the table names, only under its condition, and a fault past the fetch only where the fetch was in bounds;
and the seven kinds have the codes 1 to 7 of the table. -/
def Obligations.FaultsOnlyForTheirCauses : Prop :=
  (∀ (s t : State) (rest : List AgentMove) (r : FaultRecord), EnginesTurn s rest →
    step s = .next t → t.status = .halted r →
    FaultCause s (s.byteAt s.pc.toNat ++ s.byteAt (s.pc.toNat + 1)) r
    ∧ (r.kind ≠ .fetchOutOfBounds → s.pc.toNat + 1 ≤ 0xFFF))
  ∧ FaultKind.unsupportedOpcode.code = 1 ∧ FaultKind.machineCodeCall.code = 2 ∧ FaultKind.stackOverflow.code = 3
  ∧ FaultKind.stackUnderflow.code = 4 ∧ FaultKind.memoryOutOfBounds.code = 5 ∧ FaultKind.indexOverflow.code = 6
  ∧ FaultKind.fetchOutOfBounds.code = 7

/-- R28 and R111 (both derived), 20_memory.md R60 and 60_exceptions.md R171 (assumption log 11, 13, 17, 22), as one
invariant that every step of every agent keeps, from every state that meets it. -/
def Obligations.StepKeepsInv : Prop :=
  ∀ s t : State, Inv s → step s = .next t → Inv t

/-- The invariant holds right after reset, and in every machine `init` constructs. -/
def Obligations.ConstructedMachineMeetsInv : Prop :=
  Inv State.reset ∧
  ∀ (cfg : Config) (agenda : List AgentMove) (p : List Byte) (t : State), init cfg agenda p = .machine t → Inv t

/-- R200 (decision D6 for the registers, the timers and the keypad; R63's table for the glyphs; assumption log 1, 4,
5; log 16 for the 0 that the model's byte read gives above 0xFFF, where R61 gives no byte): the state right after
reset. -/
def Obligations.ResetState : Prop :=
  State.reset.pc = 0x200 ∧ (∀ r, State.reset.readV r = 0) ∧ State.reset.i = 0 ∧ State.reset.sp.val = 0
    ∧ (∀ k : Fin 16, State.reset.stack[k] = 0) ∧ (∀ r : Fin 32, State.reset.fb[r] = 0)
    ∧ State.reset.dt = 0 ∧ State.reset.st = 0 ∧ State.reset.tone = false ∧ State.reset.keys = 0
    ∧ State.reset.keyq = [] ∧ State.reset.status = .running ∧ State.reset.snapshots = []
    ∧ State.reset.cfg = Config.default
    ∧ (∀ k, ∀ h : k < 80, State.reset.byteAt (0x50 + k) = defaultFont[k])
    ∧ (∀ a, a < 0x50 ∨ 0x9F < a → State.reset.byteAt a = 0)

/-- R64 to R66 (decision D6 of R200 and assumption log 4, 5 for the other fields' reset values; assumption log 2, 23
for the schedule, 16 for addresses above 0xFFF): `init` constructs a machine with the glyph table at 0x50, the program
at 0x200, every other byte 0 and every other field at its reset value, or, for a program over 3584 bytes, returns
ProgramTooBig with the two sizes. -/
def Obligations.InitPlacesProgram : Prop :=
  ∀ (cfg : Config) (agenda : List AgentMove) (p : List Byte),
    (p.length ≤ 3584 → ∃ t, init cfg agenda p = .machine t
      ∧ (∀ k, ∀ h : k < p.length, t.byteAt (0x200 + k) = p[k])
      ∧ (∀ k, ∀ h : k < 80, t.byteAt (0x50 + k) = cfg.font[k])
      ∧ (∀ a, a < 0x50 ∨ 0x9F < a → a < 0x200 ∨ 0x200 + p.length ≤ a → t.byteAt a = 0)
      ∧ t = { State.construct cfg with mem := t.mem, agenda := agenda })
    ∧ (3584 < p.length → init cfg agenda p = .programTooBig p.length 3584)

/-- R28 (derived; decision D3): after a cycle that raised no fault, pc is the next word, or two words on after a skip,
or the target of a jump, call or return, or the same instruction again for a key wait with no key held; from a state
that meets the invariant it is at most 0x10FE, and a plain advance does not wrap. -/
def Obligations.PcMovesOnlyAsSpecified : Prop :=
  ∀ (s t : State) (rest : List AgentMove) (i : Instr), EnginesTurn s rest → s.pc.toNat + 1 ≤ 0xFFF →
    decode s.fetchWord = .instr i → step s = .next t → t.status = .running →
    (t.pc.toNat = s.pc.toNat + 2
      ∨ (t.pc.toNat = s.pc.toNat + 4 ∧ (skipCondition s i).isSome = true)
      ∨ (∃ nnn : Addr, (i = .jp nnn ∨ i = .call nnn) ∧ t.pc.toNat = nnn.toNat)
      ∨ (i = .ret ∧ ∃ k : Fin 16, s.sp.val = k.val + 1 ∧ t.pc = s.stack[k])
      ∨ (∃ nnn : Addr, i = .jpV0 nnn ∧ nnn.toNat ≤ t.pc.toNat ∧ t.pc.toNat ≤ nnn.toNat + 0xFF)
      ∨ (∃ x, i = .ldVxK x ∧ t.keys = 0 ∧ t.pc = s.pc))
    ∧ (Inv s → t.pc.toNat ≤ 0x10FE)

/-- R37, R38 (decision D20 for 00E0): only 00E0 and DXYN touch the framebuffer and the snapshot stream; each, when it
raises no fault, appends exactly one snapshot, the framebuffer as it then stands. -/
def Obligations.OnlyDisplayInstructionsEmit : Prop :=
  ∀ (i : Instr) (s t : State), exec i s = .next t → s.status = .running →
    (i = .cls ∨ (∃ x y n, i = .drw x y n) → t.status = .running → t.snapshots = s.snapshots ++ [t.fb])
    ∧ (i ≠ .cls → (∀ x y n, i ≠ .drw x y n) → t.fb = s.fb ∧ t.snapshots = s.snapshots)

/-- R24 to R26, R28, R30, R32, R34, R35, R37, R38, R41, R72, R171 (decisions D4, D7, D12, D13, D20, D36; assumption
log 1, 2, 3, 23 for the model's own fields): every field of the state has only the writers the spec names among the
instructions; the key mask and queue, the construction-time parameters and the schedule have none. -/
def Obligations.EveryFieldHasItsWriters : Prop :=
  ∀ (i : Instr) (s t : State), exec i s = .next t →
    (∀ r, t.readV r ≠ s.readV r → writesReg i r)
    ∧ (t.i ≠ s.i → (∃ nnn, i = .ldI nnn) ∨ (∃ x, i = .addI x ∨ i = .ldF x)
        ∨ (s.cfg.memoryIncrementsI = true ∧ ∃ x, i = .storeRegs x ∨ i = .loadRegs x))
    ∧ (t.stack ≠ s.stack → ∃ nnn, i = .call nnn) ∧ (t.sp ≠ s.sp → i = .ret ∨ ∃ nnn, i = .call nnn)
    ∧ (t.dt ≠ s.dt → ∃ x, i = .ldDTVx x) ∧ (t.st ≠ s.st → ∃ x, i = .ldSTVx x)
    ∧ (t.mem ≠ s.mem ∨ (∃ a, t.byteAt a ≠ s.byteAt a) → ∃ x, i = .ldB x ∨ i = .storeRegs x)
    ∧ (t.draws ≠ s.draws → ∃ x nn, i = .rnd x nn)
    ∧ (t.pc ≠ s.pc → i = .ret ∨ (∃ nnn, i = .jp nnn ∨ i = .call nnn ∨ i = .jpV0 nnn) ∨ ∃ x, i = .ldVxK x)
    ∧ (t.fb ≠ s.fb → i = .cls ∨ ∃ x y n, i = .drw x y n)
    ∧ (t.snapshots ≠ s.snapshots → i = .cls ∨ ∃ x y n, i = .drw x y n)
    ∧ (t.skip ≠ s.skip → (skipCondition s i).isSome = true) ∧ (t.status ≠ s.status → mayFault i)
    ∧ t.keys = s.keys ∧ t.keyq = s.keyq ∧ t.cfg = s.cfg ∧ t.agenda = s.agenda ∧ t.supply = s.supply

/-- 00_scope.md R6 ("fixed when the machine is built"; assumption log 1 for the field): no step of any agent changes
the construction-time parameters. -/
def Obligations.ConfigurationIsFixed : Prop :=
  ∀ s t : State, step s = .next t → t.cfg = s.cfg

/-- 60_exceptions.md R178, R180 (decision D27; assumption log 6, 8): every instruction may be executed at any time: in
every state its meaning answers a next state; a step stops only at the host's termination, or when the engine is
halted and no move is left for any other agent. -/
def Obligations.EveryInstructionExecutes : Prop :=
  (∀ (i : Instr) (s : State), ∃ t, exec i s = .next t)
  ∧ ∀ s : State, (∃ t, step s = .next t)
      ∨ (step s = .refused .hostTerminated ∧ ∃ rest, s.refill.agenda = .terminate :: rest)
      ∨ (∃ r, step s = .fault (.engineHalted r) ∧ s.status = .halted r ∧ s.agenda = [] ∧ s.supply = .engineAlone)

/-- 60_exceptions.md R180 ("A run is any interleaving of these steps"; assumption log 2, 23): for every finite
interleaving, putting it on the agenda and running that many steps of the machine makes exactly those moves; and with
the agenda used up, the machine goes on with the next round of the free schedule. -/
def Obligations.EveryInterleavingIsARun : Prop :=
  (∀ (ms rest : List AgentMove) (s t : State), s.agenda = ms ++ rest → runMoves ms s = .next t →
    core.run ms.length s = .next { t with agenda := rest })
  ∧ ∀ (n : Nat) (s : State), s.agenda = [] → s.supply = .free n →
      step s = step { s with agenda := roundMoves Config.otherMoves n, supply := .free (n + 1) }

/-- 70_reset_and_hazards.md R202, 20_memory.md R67: the first cycle (assumption log 2, 12 for the schedule) of a
constructed machine whose program starts with an instruction's two bytes, high byte first, runs that instruction. -/
def Obligations.FirstCycleRunsFirstWord : Prop :=
  ∀ (cfg : Config) (rest : List AgentMove) (hi lo : Byte) (p : List Byte) (i : Instr) (s : State),
    init cfg (.engine :: rest) (hi :: lo :: p) = .machine s → decode (hi ++ lo) = .instr i →
    step s = (match exec i { s with pc := 0x202, agenda := rest } with
      | .next t => .next (if t.status = .running ∧ t.skip = true then { t with pc := t.pc + 2 } else t)
      | .fault r => .fault r
      | .refused r => .refused r)


/-- 60_exceptions.md R181 (decisions D2, D34; assumption log 23 for the free schedule and its rounds): every infinite run
on the free schedule is fair, and in one where no step raises a timer the timer comes to 0 and stays there (R184); and
the rounds reach every fair infinite interleaving: for each there are other moves whose rounds make it, move by move. -/
def Obligations.InfiniteRunsAreFair : Prop :=
  (∀ tr : Nat → State, IsRun tr → (∃ n, (tr 0).supply = .free n) →
    FairRun tr
    ∧ ((∀ k, (tr (k + 1)).dt.toNat ≤ (tr k).dt.toNat) → ∃ k, ∀ j, k ≤ j → (tr j).dt = 0)
    ∧ ((∀ k, (tr (k + 1)).st.toNat ≤ (tr k).st.toNat) → ∃ k, ∀ j, k ≤ j → (tr j).st = 0))
  ∧ ∀ moves : Nat → AgentMove, FairSchedule moves → ∃ others : Nat → List AgentMove, ∀ n : Nat, ∃ len : Nat, n ≤ len
      ∧ (List.range n).flatMap (roundMoves others) = (List.range len).map moves
end

