-- ==== Sys2Proof/Laws/Decode.lean ====
section
/-! SUPPORT. The fields of the encoder's layouts, the word rebuilt from its fields, what a masked match says of the
fields, and the word of the bytes a word is stored as. -/

namespace Sys2Proof

variable (op : BitVec 4) (x y : RegIdx) (n : Nibble) (nn : Byte) (nnn : Addr) (w : Word)

/-! Fields of a layout (30_encoding.md R86, R87). -/

@[simp] theorem opField_layoutA : opField (layoutA op nnn) = op := by
  unfold opField layoutA; ext k hk
  simp only [BitVec.getElem_extractLsb', BitVec.getLsbD_append]; interval_cases k <;> rfl

@[simp] theorem nnnField_layoutA : nnnField (layoutA op nnn) = nnn := by
  unfold nnnField layoutA; ext k hk
  simp only [BitVec.getElem_extractLsb', BitVec.getLsbD_append]; interval_cases k <;> rfl

@[simp] theorem opField_layoutXB : opField (layoutXB op x nn) = op := by
  unfold opField layoutXB; ext k hk
  simp only [BitVec.getElem_extractLsb', BitVec.getLsbD_append]; interval_cases k <;> rfl

@[simp] theorem xField_layoutXB : xField (layoutXB op x nn) = x := by
  unfold xField layoutXB; ext k hk
  simp only [BitVec.getElem_extractLsb', BitVec.getLsbD_append]; interval_cases k <;> rfl

@[simp] theorem nnField_layoutXB : nnField (layoutXB op x nn) = nn := by
  unfold nnField layoutXB; ext k hk
  simp only [BitVec.getElem_extractLsb', BitVec.getLsbD_append]; interval_cases k <;> rfl

@[simp] theorem opField_layoutXYN : opField (layoutXYN op x y n) = op := by
  unfold opField layoutXYN; ext k hk
  simp only [BitVec.getElem_extractLsb', BitVec.getLsbD_append]; interval_cases k <;> rfl

@[simp] theorem xField_layoutXYN : xField (layoutXYN op x y n) = x := by
  unfold xField layoutXYN; ext k hk
  simp only [BitVec.getElem_extractLsb', BitVec.getLsbD_append]; interval_cases k <;> rfl

@[simp] theorem yField_layoutXYN : yField (layoutXYN op x y n) = y := by
  unfold yField layoutXYN; ext k hk
  simp only [BitVec.getElem_extractLsb', BitVec.getLsbD_append]; interval_cases k <;> rfl

@[simp] theorem nField_layoutXYN : nField (layoutXYN op x y n) = n := by
  unfold nField layoutXYN; ext k hk
  simp only [BitVec.getElem_extractLsb', BitVec.getLsbD_append]; interval_cases k <;> rfl

/-! A word is its fields. -/

theorem layoutA_fields : layoutA (opField w) (nnnField w) = w := by
  unfold layoutA opField nnnField; ext k hk
  simp only [BitVec.getElem_append, BitVec.getElem_extractLsb']; interval_cases k <;> rfl

theorem layoutXB_fields : layoutXB (opField w) (xField w) (nnField w) = w := by
  unfold layoutXB opField xField nnField; ext k hk
  simp only [BitVec.getElem_append, BitVec.getElem_extractLsb']; interval_cases k <;> rfl

theorem layoutXYN_fields : layoutXYN (opField w) (xField w) (yField w) (nField w) = w := by
  unfold layoutXYN opField xField yField nField; ext k hk
  simp only [BitVec.getElem_append, BitVec.getElem_extractLsb']; interval_cases k <;> rfl

/-! The masks of the opcode table. -/

theorem mask_layoutA : layoutA op nnn &&& 0xF000 = layoutA op 0 := by
  unfold layoutA; apply BitVec.eq_of_getLsbD_eq; intro k hk
  simp only [BitVec.getLsbD_and, BitVec.getLsbD_append]; interval_cases k <;> simp

theorem mask_layoutXB : layoutXB op x nn &&& 0xF000 = layoutXB op 0 0 := by
  unfold layoutXB; apply BitVec.eq_of_getLsbD_eq; intro k hk
  simp only [BitVec.getLsbD_and, BitVec.getLsbD_append]; interval_cases k <;> simp

theorem mask_layoutXF : layoutXB op x nn &&& 0xF0FF = layoutXB op 0 nn := by
  unfold layoutXB; apply BitVec.eq_of_getLsbD_eq; intro k hk
  simp only [BitVec.getLsbD_and, BitVec.getLsbD_append]; interval_cases k <;> simp

theorem mask_layoutXYN : layoutXYN op x y n &&& 0xF00F = layoutXYN op 0 0 n := by
  unfold layoutXYN; apply BitVec.eq_of_getLsbD_eq; intro k hk
  simp only [BitVec.getLsbD_and, BitVec.getLsbD_append]; interval_cases k <;> simp

theorem mask_layoutXYN_op : layoutXYN op x y n &&& 0xF000 = layoutXYN op 0 0 0 := by
  unfold layoutXYN; apply BitVec.eq_of_getLsbD_eq; intro k hk
  simp only [BitVec.getLsbD_and, BitVec.getLsbD_append]; interval_cases k <;> simp

/-- A match under mask 0xF000 fixes the opcode nibble. -/
theorem opField_of_mask {w b : Word} (h : w &&& 0xF000 = b) : opField w = opField b := by
  subst h; unfold opField; ext k hk
  simp only [BitVec.getElem_extractLsb', BitVec.getLsbD_and]; interval_cases k <;> simp

/-- A match under mask 0xF00F fixes the opcode nibble and the low nibble. -/
theorem fields_of_mask_XYN {w b : Word} (h : w &&& 0xF00F = b) : opField w = opField b ∧ nField w = nField b := by
  subst h; unfold opField nField; constructor <;> ext k hk <;>
  simp only [BitVec.getElem_extractLsb', BitVec.getLsbD_and] <;> interval_cases k <;> simp

/-- A match under mask 0xF0FF fixes the opcode nibble and the low byte. -/
theorem fields_of_mask_XF {w b : Word} (h : w &&& 0xF0FF = b) : opField w = opField b ∧ nnField w = nnField b := by
  subst h; unfold opField nnField; constructor <;> ext k hk <;>
  simp only [BitVec.getElem_extractLsb', BitVec.getLsbD_and] <;> interval_cases k <;> simp

/-! Byte order (20_memory.md R67). -/

/-- A word stored high byte first and read back is the word. -/
@[simp] theorem wordOfBytes_bytes : wordOfBytes (highByte w) (lowByte w) = w := by
  unfold wordOfBytes highByte lowByte; ext k hk
  simp only [BitVec.getElem_append, BitVec.getElem_extractLsb']; interval_cases k <;> rfl

end Sys2Proof
end

