-- ==== Sys2Proof/Laws/Memory.lean ====
section
/-! SUPPORT. The laws of memory: what a read answers after each operation, and that every operation keeps the
canonical form. -/

namespace Sys2Proof.Machine

variable {font : Vector Byte 80} {m : Memory} {a : Nat} {b : Byte}

/-- An address below every listed one has no entry. -/
theorem Memory.cellAt_eq_none_of_lt (h : ∀ c ∈ m, a < c.1) : Memory.cellAt m a = none := by
  induction m with
  | nil => rfl
  | cons c rest ih =>
    obtain ⟨k, v⟩ := c
    have hk : a < k := h (k, v) (by simp)
    rw [Memory.cellAt, if_neg (by omega)]
    exact ih fun c hc => h c (by simp [hc])

/-- A listed entry is what its address holds. -/
theorem Memory.cellAt_of_mem (hr : m.Pairwise (fun p q => p.1 < q.1)) (h : (a, b) ∈ m) :
    Memory.cellAt m a = some b := by
  induction m with
  | nil => simp at h
  | cons c rest ih =>
    obtain ⟨k, v⟩ := c
    rw [List.pairwise_cons] at hr
    rcases List.mem_cons.mp h with h' | h'
    · cases h'; simp [Memory.cellAt]
    · have : k < a := hr.1 (a, b) h'
      rw [Memory.cellAt, if_neg (by omega)]
      exact ih hr.2 h'

/-- What an address holds is listed. -/
theorem Memory.mem_of_cellAt (h : Memory.cellAt m a = some b) : (a, b) ∈ m := by
  induction m with
  | nil => simp [Memory.cellAt] at h
  | cons c rest ih =>
    obtain ⟨k, v⟩ := c
    rw [Memory.cellAt] at h
    split at h
    · rename_i hk; cases h; simp [hk]
    · exact List.mem_cons_of_mem _ (ih h)

/-- The entries of a list after one is put. -/
theorem Memory.mem_putCell {c : Host.Cell} (h : c ∈ Memory.putCell m a b) : c = (a, b) ∨ c ∈ m := by
  induction m with
  | nil => simpa [Memory.putCell] using h
  | cons d rest ih =>
    obtain ⟨k, v⟩ := d
    rw [Memory.putCell] at h
    split at h
    · exact List.mem_cons.mp h
    · split at h
      · rcases List.mem_cons.mp h with h | h
        · exact .inl h
        · exact .inr (List.mem_cons_of_mem _ h)
      · rcases List.mem_cons.mp h with h | h
        · exact .inr (by simp [h])
        · exact (ih h).imp_right (List.mem_cons_of_mem _)

/-- The entries of a list after one is dropped. -/
theorem Memory.mem_dropCell {c : Host.Cell} (h : c ∈ Memory.dropCell m a) : c ∈ m := by
  induction m with
  | nil => simp [Memory.dropCell] at h
  | cons d rest ih =>
    obtain ⟨k, v⟩ := d
    rw [Memory.dropCell] at h
    split at h
    · exact List.mem_cons_of_mem _ (ih h)
    · rcases List.mem_cons.mp h with h | h
      · simp [h]
      · exact List.mem_cons_of_mem _ (ih h)

theorem Memory.putCell_rising (hr : m.Pairwise (fun p q => p.1 < q.1)) :
    (Memory.putCell m a b).Pairwise (fun p q => p.1 < q.1) := by
  induction m with
  | nil => simp [Memory.putCell]
  | cons d rest ih =>
    obtain ⟨k, v⟩ := d
    have hr' := List.pairwise_cons.mp hr
    rw [Memory.putCell]
    split
    · rename_i hk
      refine List.pairwise_cons.mpr ⟨fun c hc => ?_, hr⟩
      rcases List.mem_cons.mp hc with rfl | hc
      · exact hk
      · exact hk.trans (hr'.1 c hc)
    · split
      · rename_i hk
        exact List.pairwise_cons.mpr ⟨fun c hc => hk ▸ hr'.1 c hc, hr'.2⟩
      · refine List.pairwise_cons.mpr ⟨fun c hc => ?_, ih hr'.2⟩
        rcases Memory.mem_putCell hc with rfl | hc
        · show k < a; omega
        · exact hr'.1 c hc

theorem Memory.dropCell_rising (hr : m.Pairwise (fun p q => p.1 < q.1)) :
    (Memory.dropCell m a).Pairwise (fun p q => p.1 < q.1) := by
  induction m with
  | nil => simp [Memory.dropCell]
  | cons d rest ih =>
    obtain ⟨k, v⟩ := d
    have hr' := List.pairwise_cons.mp hr
    rw [Memory.dropCell]
    split
    · exact ih hr'.2
    · exact List.pairwise_cons.mpr ⟨fun c hc => hr'.1 c (Memory.mem_dropCell hc), ih hr'.2⟩

theorem Memory.cellAt_putCell (m : Memory) (a : Nat) (b : Byte) (c : Nat) :
    Memory.cellAt (Memory.putCell m a b) c = if c = a then some b else Memory.cellAt m c := by
  induction m with
  | nil => simp only [Memory.putCell, Memory.cellAt, eq_comm]
  | cons d rest ih =>
    obtain ⟨k, v⟩ := d
    simp only [Memory.putCell]
    split_ifs <;> simp_all [Memory.cellAt, eq_comm]

theorem Memory.cellAt_dropCell (m : Memory) (a c : Nat) :
    Memory.cellAt (Memory.dropCell m a) c = if c = a then none else Memory.cellAt m c := by
  induction m with
  | nil => simp [Memory.dropCell, Memory.cellAt]
  | cons d rest ih =>
    obtain ⟨k, v⟩ := d
    simp only [Memory.dropCell]
    split_ifs <;> simp_all [Memory.cellAt]
    all_goals grind

/-- A read after a write, of any memory: the byte written at its own address, the byte before everywhere else. -/
theorem Memory.read_write (font : Vector Byte 80) (m : Memory) (a : Nat) (b : Byte) (c : Nat) :
    Memory.read font (Memory.write font m a b) c = if c = a then b else Memory.read font m c := by
  unfold Memory.read Memory.write
  split
  · rename_i hb
    rw [Memory.cellAt_dropCell]
    split_ifs with hc
    · simp [hc, hb]
    · rfl
  · rw [Memory.cellAt_putCell]
    split_ifs <;> simp

/-- A write inside memory keeps the canonical form. -/
theorem Memory.wf_write (h : Memory.wf font m) (ha : a ≤ 0xFFF) : Memory.wf font (Memory.write font m a b) := by
  unfold Memory.write
  split
  · exact ⟨Memory.dropCell_rising h.1, fun c hc => h.2 c (Memory.mem_dropCell hc)⟩
  · rename_i hb
    refine ⟨Memory.putCell_rising h.1, fun c hc => ?_⟩
    rcases Memory.mem_putCell hc with rfl | hc
    · exact ⟨ha, hb⟩
    · exact h.2 c hc

/-- Memory with nothing listed is canonical. -/
theorem Memory.wf_nil : Memory.wf font [] := by simp [Memory.wf]

end Sys2Proof.Machine
end

