-- ==== Sys2Proof/Laws/State.lean ====
section
/-! SUPPORT. Each named update of State, field by field: one lemma per field per update, true by unfolding, so that no
later proof unfolds a record update. -/

namespace Sys2Proof.Machine

variable (s : State)

/-! `writeV` -/

@[simp] theorem State.writeV_v (x : RegIdx) (b : Byte) : (s.writeV x b).v = s.v.set x.toNat b x.isLt := rfl
@[simp] theorem State.writeV_i (x : RegIdx) (b : Byte) : (s.writeV x b).i = s.i := rfl
@[simp] theorem State.writeV_pc (x : RegIdx) (b : Byte) : (s.writeV x b).pc = s.pc := rfl
@[simp] theorem State.writeV_stack (x : RegIdx) (b : Byte) : (s.writeV x b).stack = s.stack := rfl
@[simp] theorem State.writeV_sp (x : RegIdx) (b : Byte) : (s.writeV x b).sp = s.sp := rfl
@[simp] theorem State.writeV_fb (x : RegIdx) (b : Byte) : (s.writeV x b).fb = s.fb := rfl
@[simp] theorem State.writeV_dt (x : RegIdx) (b : Byte) : (s.writeV x b).dt = s.dt := rfl
@[simp] theorem State.writeV_st (x : RegIdx) (b : Byte) : (s.writeV x b).st = s.st := rfl
@[simp] theorem State.writeV_keys (x : RegIdx) (b : Byte) : (s.writeV x b).keys = s.keys := rfl
@[simp] theorem State.writeV_keyq (x : RegIdx) (b : Byte) : (s.writeV x b).keyq = s.keyq := rfl
@[simp] theorem State.writeV_status (x : RegIdx) (b : Byte) : (s.writeV x b).status = s.status := rfl
@[simp] theorem State.writeV_skip (x : RegIdx) (b : Byte) : (s.writeV x b).skip = s.skip := rfl
@[simp] theorem State.writeV_snapshots (x : RegIdx) (b : Byte) : (s.writeV x b).snapshots = s.snapshots := rfl
@[simp] theorem State.writeV_mem (x : RegIdx) (b : Byte) : (s.writeV x b).mem = s.mem := rfl
@[simp] theorem State.writeV_cfg (x : RegIdx) (b : Byte) : (s.writeV x b).cfg = s.cfg := rfl
@[simp] theorem State.writeV_agenda (x : RegIdx) (b : Byte) : (s.writeV x b).agenda = s.agenda := rfl
@[simp] theorem State.writeV_supply (x : RegIdx) (b : Byte) : (s.writeV x b).supply = s.supply := rfl
@[simp] theorem State.writeV_draws (x : RegIdx) (b : Byte) : (s.writeV x b).draws = s.draws := rfl

/-! `writeI` -/

@[simp] theorem State.writeI_v (w : Word) : (s.writeI w).v = s.v := rfl
@[simp] theorem State.writeI_i (w : Word) : (s.writeI w).i = w := rfl
@[simp] theorem State.writeI_pc (w : Word) : (s.writeI w).pc = s.pc := rfl
@[simp] theorem State.writeI_stack (w : Word) : (s.writeI w).stack = s.stack := rfl
@[simp] theorem State.writeI_sp (w : Word) : (s.writeI w).sp = s.sp := rfl
@[simp] theorem State.writeI_fb (w : Word) : (s.writeI w).fb = s.fb := rfl
@[simp] theorem State.writeI_dt (w : Word) : (s.writeI w).dt = s.dt := rfl
@[simp] theorem State.writeI_st (w : Word) : (s.writeI w).st = s.st := rfl
@[simp] theorem State.writeI_keys (w : Word) : (s.writeI w).keys = s.keys := rfl
@[simp] theorem State.writeI_keyq (w : Word) : (s.writeI w).keyq = s.keyq := rfl
@[simp] theorem State.writeI_status (w : Word) : (s.writeI w).status = s.status := rfl
@[simp] theorem State.writeI_skip (w : Word) : (s.writeI w).skip = s.skip := rfl
@[simp] theorem State.writeI_snapshots (w : Word) : (s.writeI w).snapshots = s.snapshots := rfl
@[simp] theorem State.writeI_mem (w : Word) : (s.writeI w).mem = s.mem := rfl
@[simp] theorem State.writeI_cfg (w : Word) : (s.writeI w).cfg = s.cfg := rfl
@[simp] theorem State.writeI_agenda (w : Word) : (s.writeI w).agenda = s.agenda := rfl
@[simp] theorem State.writeI_supply (w : Word) : (s.writeI w).supply = s.supply := rfl
@[simp] theorem State.writeI_draws (w : Word) : (s.writeI w).draws = s.draws := rfl

/-! `advancePc` -/

@[simp] theorem State.advancePc_v : (s.advancePc).v = s.v := rfl
@[simp] theorem State.advancePc_i : (s.advancePc).i = s.i := rfl
@[simp] theorem State.advancePc_pc : (s.advancePc).pc = s.pc + 2 := rfl
@[simp] theorem State.advancePc_stack : (s.advancePc).stack = s.stack := rfl
@[simp] theorem State.advancePc_sp : (s.advancePc).sp = s.sp := rfl
@[simp] theorem State.advancePc_fb : (s.advancePc).fb = s.fb := rfl
@[simp] theorem State.advancePc_dt : (s.advancePc).dt = s.dt := rfl
@[simp] theorem State.advancePc_st : (s.advancePc).st = s.st := rfl
@[simp] theorem State.advancePc_keys : (s.advancePc).keys = s.keys := rfl
@[simp] theorem State.advancePc_keyq : (s.advancePc).keyq = s.keyq := rfl
@[simp] theorem State.advancePc_status : (s.advancePc).status = s.status := rfl
@[simp] theorem State.advancePc_skip : (s.advancePc).skip = s.skip := rfl
@[simp] theorem State.advancePc_snapshots : (s.advancePc).snapshots = s.snapshots := rfl
@[simp] theorem State.advancePc_mem : (s.advancePc).mem = s.mem := rfl
@[simp] theorem State.advancePc_cfg : (s.advancePc).cfg = s.cfg := rfl
@[simp] theorem State.advancePc_agenda : (s.advancePc).agenda = s.agenda := rfl
@[simp] theorem State.advancePc_supply : (s.advancePc).supply = s.supply := rfl
@[simp] theorem State.advancePc_draws : (s.advancePc).draws = s.draws := rfl

/-! `loadPc` -/

@[simp] theorem State.loadPc_v (w : Word) : (s.loadPc w).v = s.v := rfl
@[simp] theorem State.loadPc_i (w : Word) : (s.loadPc w).i = s.i := rfl
@[simp] theorem State.loadPc_pc (w : Word) : (s.loadPc w).pc = w := rfl
@[simp] theorem State.loadPc_stack (w : Word) : (s.loadPc w).stack = s.stack := rfl
@[simp] theorem State.loadPc_sp (w : Word) : (s.loadPc w).sp = s.sp := rfl
@[simp] theorem State.loadPc_fb (w : Word) : (s.loadPc w).fb = s.fb := rfl
@[simp] theorem State.loadPc_dt (w : Word) : (s.loadPc w).dt = s.dt := rfl
@[simp] theorem State.loadPc_st (w : Word) : (s.loadPc w).st = s.st := rfl
@[simp] theorem State.loadPc_keys (w : Word) : (s.loadPc w).keys = s.keys := rfl
@[simp] theorem State.loadPc_keyq (w : Word) : (s.loadPc w).keyq = s.keyq := rfl
@[simp] theorem State.loadPc_status (w : Word) : (s.loadPc w).status = s.status := rfl
@[simp] theorem State.loadPc_skip (w : Word) : (s.loadPc w).skip = s.skip := rfl
@[simp] theorem State.loadPc_snapshots (w : Word) : (s.loadPc w).snapshots = s.snapshots := rfl
@[simp] theorem State.loadPc_mem (w : Word) : (s.loadPc w).mem = s.mem := rfl
@[simp] theorem State.loadPc_cfg (w : Word) : (s.loadPc w).cfg = s.cfg := rfl
@[simp] theorem State.loadPc_agenda (w : Word) : (s.loadPc w).agenda = s.agenda := rfl
@[simp] theorem State.loadPc_supply (w : Word) : (s.loadPc w).supply = s.supply := rfl
@[simp] theorem State.loadPc_draws (w : Word) : (s.loadPc w).draws = s.draws := rfl

/-! `rewindPc` -/

@[simp] theorem State.rewindPc_v : (s.rewindPc).v = s.v := rfl
@[simp] theorem State.rewindPc_i : (s.rewindPc).i = s.i := rfl
@[simp] theorem State.rewindPc_pc : (s.rewindPc).pc = s.pc - 2 := rfl
@[simp] theorem State.rewindPc_stack : (s.rewindPc).stack = s.stack := rfl
@[simp] theorem State.rewindPc_sp : (s.rewindPc).sp = s.sp := rfl
@[simp] theorem State.rewindPc_fb : (s.rewindPc).fb = s.fb := rfl
@[simp] theorem State.rewindPc_dt : (s.rewindPc).dt = s.dt := rfl
@[simp] theorem State.rewindPc_st : (s.rewindPc).st = s.st := rfl
@[simp] theorem State.rewindPc_keys : (s.rewindPc).keys = s.keys := rfl
@[simp] theorem State.rewindPc_keyq : (s.rewindPc).keyq = s.keyq := rfl
@[simp] theorem State.rewindPc_status : (s.rewindPc).status = s.status := rfl
@[simp] theorem State.rewindPc_skip : (s.rewindPc).skip = s.skip := rfl
@[simp] theorem State.rewindPc_snapshots : (s.rewindPc).snapshots = s.snapshots := rfl
@[simp] theorem State.rewindPc_mem : (s.rewindPc).mem = s.mem := rfl
@[simp] theorem State.rewindPc_cfg : (s.rewindPc).cfg = s.cfg := rfl
@[simp] theorem State.rewindPc_agenda : (s.rewindPc).agenda = s.agenda := rfl
@[simp] theorem State.rewindPc_supply : (s.rewindPc).supply = s.supply := rfl
@[simp] theorem State.rewindPc_draws : (s.rewindPc).draws = s.draws := rfl

/-! `skipIf` -/

@[simp] theorem State.skipIf_v (c : Bool) : (s.skipIf c).v = s.v := rfl
@[simp] theorem State.skipIf_i (c : Bool) : (s.skipIf c).i = s.i := rfl
@[simp] theorem State.skipIf_pc (c : Bool) : (s.skipIf c).pc = s.pc := rfl
@[simp] theorem State.skipIf_stack (c : Bool) : (s.skipIf c).stack = s.stack := rfl
@[simp] theorem State.skipIf_sp (c : Bool) : (s.skipIf c).sp = s.sp := rfl
@[simp] theorem State.skipIf_fb (c : Bool) : (s.skipIf c).fb = s.fb := rfl
@[simp] theorem State.skipIf_dt (c : Bool) : (s.skipIf c).dt = s.dt := rfl
@[simp] theorem State.skipIf_st (c : Bool) : (s.skipIf c).st = s.st := rfl
@[simp] theorem State.skipIf_keys (c : Bool) : (s.skipIf c).keys = s.keys := rfl
@[simp] theorem State.skipIf_keyq (c : Bool) : (s.skipIf c).keyq = s.keyq := rfl
@[simp] theorem State.skipIf_status (c : Bool) : (s.skipIf c).status = s.status := rfl
@[simp] theorem State.skipIf_skip (c : Bool) : (s.skipIf c).skip = (c || s.skip) := rfl
@[simp] theorem State.skipIf_snapshots (c : Bool) : (s.skipIf c).snapshots = s.snapshots := rfl
@[simp] theorem State.skipIf_mem (c : Bool) : (s.skipIf c).mem = s.mem := rfl
@[simp] theorem State.skipIf_cfg (c : Bool) : (s.skipIf c).cfg = s.cfg := rfl
@[simp] theorem State.skipIf_agenda (c : Bool) : (s.skipIf c).agenda = s.agenda := rfl
@[simp] theorem State.skipIf_supply (c : Bool) : (s.skipIf c).supply = s.supply := rfl
@[simp] theorem State.skipIf_draws (c : Bool) : (s.skipIf c).draws = s.draws := rfl

/-! `raise` -/

@[simp] theorem State.raise_v (k : FaultKind) (w : Option Word) (a : Word) (o : Option Word) : (s.raise k w a o).v = s.v := rfl
@[simp] theorem State.raise_i (k : FaultKind) (w : Option Word) (a : Word) (o : Option Word) : (s.raise k w a o).i = s.i := rfl
@[simp] theorem State.raise_pc (k : FaultKind) (w : Option Word) (a : Word) (o : Option Word) : (s.raise k w a o).pc = s.pc := rfl
@[simp] theorem State.raise_stack (k : FaultKind) (w : Option Word) (a : Word) (o : Option Word) : (s.raise k w a o).stack = s.stack := rfl
@[simp] theorem State.raise_sp (k : FaultKind) (w : Option Word) (a : Word) (o : Option Word) : (s.raise k w a o).sp = s.sp := rfl
@[simp] theorem State.raise_fb (k : FaultKind) (w : Option Word) (a : Word) (o : Option Word) : (s.raise k w a o).fb = s.fb := rfl
@[simp] theorem State.raise_dt (k : FaultKind) (w : Option Word) (a : Word) (o : Option Word) : (s.raise k w a o).dt = s.dt := rfl
@[simp] theorem State.raise_st (k : FaultKind) (w : Option Word) (a : Word) (o : Option Word) : (s.raise k w a o).st = s.st := rfl
@[simp] theorem State.raise_keys (k : FaultKind) (w : Option Word) (a : Word) (o : Option Word) : (s.raise k w a o).keys = s.keys := rfl
@[simp] theorem State.raise_keyq (k : FaultKind) (w : Option Word) (a : Word) (o : Option Word) : (s.raise k w a o).keyq = s.keyq := rfl
@[simp] theorem State.raise_status (k : FaultKind) (w : Option Word) (a : Word) (o : Option Word) : (s.raise k w a o).status = .halted ⟨k, w, a, o⟩ := rfl
@[simp] theorem State.raise_skip (k : FaultKind) (w : Option Word) (a : Word) (o : Option Word) : (s.raise k w a o).skip = s.skip := rfl
@[simp] theorem State.raise_snapshots (k : FaultKind) (w : Option Word) (a : Word) (o : Option Word) : (s.raise k w a o).snapshots = s.snapshots := rfl
@[simp] theorem State.raise_mem (k : FaultKind) (w : Option Word) (a : Word) (o : Option Word) : (s.raise k w a o).mem = s.mem := rfl
@[simp] theorem State.raise_cfg (k : FaultKind) (w : Option Word) (a : Word) (o : Option Word) : (s.raise k w a o).cfg = s.cfg := rfl
@[simp] theorem State.raise_agenda (k : FaultKind) (w : Option Word) (a : Word) (o : Option Word) : (s.raise k w a o).agenda = s.agenda := rfl
@[simp] theorem State.raise_supply (k : FaultKind) (w : Option Word) (a : Word) (o : Option Word) : (s.raise k w a o).supply = s.supply := rfl
@[simp] theorem State.raise_draws (k : FaultKind) (w : Option Word) (a : Word) (o : Option Word) : (s.raise k w a o).draws = s.draws := rfl

/-! `raiseFor` -/

@[simp] theorem State.raiseFor_v (j : Instr) (k : FaultKind) (o : Option Word) : (s.raiseFor j k o).v = s.v := rfl
@[simp] theorem State.raiseFor_i (j : Instr) (k : FaultKind) (o : Option Word) : (s.raiseFor j k o).i = s.i := rfl
@[simp] theorem State.raiseFor_pc (j : Instr) (k : FaultKind) (o : Option Word) : (s.raiseFor j k o).pc = s.pc := rfl
@[simp] theorem State.raiseFor_stack (j : Instr) (k : FaultKind) (o : Option Word) : (s.raiseFor j k o).stack = s.stack := rfl
@[simp] theorem State.raiseFor_sp (j : Instr) (k : FaultKind) (o : Option Word) : (s.raiseFor j k o).sp = s.sp := rfl
@[simp] theorem State.raiseFor_fb (j : Instr) (k : FaultKind) (o : Option Word) : (s.raiseFor j k o).fb = s.fb := rfl
@[simp] theorem State.raiseFor_dt (j : Instr) (k : FaultKind) (o : Option Word) : (s.raiseFor j k o).dt = s.dt := rfl
@[simp] theorem State.raiseFor_st (j : Instr) (k : FaultKind) (o : Option Word) : (s.raiseFor j k o).st = s.st := rfl
@[simp] theorem State.raiseFor_keys (j : Instr) (k : FaultKind) (o : Option Word) : (s.raiseFor j k o).keys = s.keys := rfl
@[simp] theorem State.raiseFor_keyq (j : Instr) (k : FaultKind) (o : Option Word) : (s.raiseFor j k o).keyq = s.keyq := rfl
@[simp] theorem State.raiseFor_status (j : Instr) (k : FaultKind) (o : Option Word) : (s.raiseFor j k o).status = .halted ⟨k, some (encode j), s.pc - 2, o⟩ := rfl
@[simp] theorem State.raiseFor_skip (j : Instr) (k : FaultKind) (o : Option Word) : (s.raiseFor j k o).skip = s.skip := rfl
@[simp] theorem State.raiseFor_snapshots (j : Instr) (k : FaultKind) (o : Option Word) : (s.raiseFor j k o).snapshots = s.snapshots := rfl
@[simp] theorem State.raiseFor_mem (j : Instr) (k : FaultKind) (o : Option Word) : (s.raiseFor j k o).mem = s.mem := rfl
@[simp] theorem State.raiseFor_cfg (j : Instr) (k : FaultKind) (o : Option Word) : (s.raiseFor j k o).cfg = s.cfg := rfl
@[simp] theorem State.raiseFor_agenda (j : Instr) (k : FaultKind) (o : Option Word) : (s.raiseFor j k o).agenda = s.agenda := rfl
@[simp] theorem State.raiseFor_supply (j : Instr) (k : FaultKind) (o : Option Word) : (s.raiseFor j k o).supply = s.supply := rfl
@[simp] theorem State.raiseFor_draws (j : Instr) (k : FaultKind) (o : Option Word) : (s.raiseFor j k o).draws = s.draws := rfl

/-! `memWrite` -/

@[simp] theorem State.memWrite_v (a : Nat) (b : Byte) : (s.memWrite a b).v = s.v := rfl
@[simp] theorem State.memWrite_i (a : Nat) (b : Byte) : (s.memWrite a b).i = s.i := rfl
@[simp] theorem State.memWrite_pc (a : Nat) (b : Byte) : (s.memWrite a b).pc = s.pc := rfl
@[simp] theorem State.memWrite_stack (a : Nat) (b : Byte) : (s.memWrite a b).stack = s.stack := rfl
@[simp] theorem State.memWrite_sp (a : Nat) (b : Byte) : (s.memWrite a b).sp = s.sp := rfl
@[simp] theorem State.memWrite_fb (a : Nat) (b : Byte) : (s.memWrite a b).fb = s.fb := rfl
@[simp] theorem State.memWrite_dt (a : Nat) (b : Byte) : (s.memWrite a b).dt = s.dt := rfl
@[simp] theorem State.memWrite_st (a : Nat) (b : Byte) : (s.memWrite a b).st = s.st := rfl
@[simp] theorem State.memWrite_keys (a : Nat) (b : Byte) : (s.memWrite a b).keys = s.keys := rfl
@[simp] theorem State.memWrite_keyq (a : Nat) (b : Byte) : (s.memWrite a b).keyq = s.keyq := rfl
@[simp] theorem State.memWrite_status (a : Nat) (b : Byte) : (s.memWrite a b).status = s.status := rfl
@[simp] theorem State.memWrite_skip (a : Nat) (b : Byte) : (s.memWrite a b).skip = s.skip := rfl
@[simp] theorem State.memWrite_snapshots (a : Nat) (b : Byte) : (s.memWrite a b).snapshots = s.snapshots := rfl
@[simp] theorem State.memWrite_mem (a : Nat) (b : Byte) : (s.memWrite a b).mem = (if a ≤ 0xFFF then Memory.write s.cfg.font s.mem a b else s.mem) := rfl
@[simp] theorem State.memWrite_cfg (a : Nat) (b : Byte) : (s.memWrite a b).cfg = s.cfg := rfl
@[simp] theorem State.memWrite_agenda (a : Nat) (b : Byte) : (s.memWrite a b).agenda = s.agenda := rfl
@[simp] theorem State.memWrite_supply (a : Nat) (b : Byte) : (s.memWrite a b).supply = s.supply := rfl
@[simp] theorem State.memWrite_draws (a : Nat) (b : Byte) : (s.memWrite a b).draws = s.draws := rfl

/-! `showFB` -/

@[simp] theorem State.showFB_v (f : FrameBuffer) : (s.showFB f).v = s.v := rfl
@[simp] theorem State.showFB_i (f : FrameBuffer) : (s.showFB f).i = s.i := rfl
@[simp] theorem State.showFB_pc (f : FrameBuffer) : (s.showFB f).pc = s.pc := rfl
@[simp] theorem State.showFB_stack (f : FrameBuffer) : (s.showFB f).stack = s.stack := rfl
@[simp] theorem State.showFB_sp (f : FrameBuffer) : (s.showFB f).sp = s.sp := rfl
@[simp] theorem State.showFB_fb (f : FrameBuffer) : (s.showFB f).fb = f := rfl
@[simp] theorem State.showFB_dt (f : FrameBuffer) : (s.showFB f).dt = s.dt := rfl
@[simp] theorem State.showFB_st (f : FrameBuffer) : (s.showFB f).st = s.st := rfl
@[simp] theorem State.showFB_keys (f : FrameBuffer) : (s.showFB f).keys = s.keys := rfl
@[simp] theorem State.showFB_keyq (f : FrameBuffer) : (s.showFB f).keyq = s.keyq := rfl
@[simp] theorem State.showFB_status (f : FrameBuffer) : (s.showFB f).status = s.status := rfl
@[simp] theorem State.showFB_skip (f : FrameBuffer) : (s.showFB f).skip = s.skip := rfl
@[simp] theorem State.showFB_snapshots (f : FrameBuffer) : (s.showFB f).snapshots = s.snapshots ++ [f] := rfl
@[simp] theorem State.showFB_mem (f : FrameBuffer) : (s.showFB f).mem = s.mem := rfl
@[simp] theorem State.showFB_cfg (f : FrameBuffer) : (s.showFB f).cfg = s.cfg := rfl
@[simp] theorem State.showFB_agenda (f : FrameBuffer) : (s.showFB f).agenda = s.agenda := rfl
@[simp] theorem State.showFB_supply (f : FrameBuffer) : (s.showFB f).supply = s.supply := rfl
@[simp] theorem State.showFB_draws (f : FrameBuffer) : (s.showFB f).draws = s.draws := rfl

/-! `writeDT` -/

@[simp] theorem State.writeDT_v (b : Byte) : (s.writeDT b).v = s.v := rfl
@[simp] theorem State.writeDT_i (b : Byte) : (s.writeDT b).i = s.i := rfl
@[simp] theorem State.writeDT_pc (b : Byte) : (s.writeDT b).pc = s.pc := rfl
@[simp] theorem State.writeDT_stack (b : Byte) : (s.writeDT b).stack = s.stack := rfl
@[simp] theorem State.writeDT_sp (b : Byte) : (s.writeDT b).sp = s.sp := rfl
@[simp] theorem State.writeDT_fb (b : Byte) : (s.writeDT b).fb = s.fb := rfl
@[simp] theorem State.writeDT_dt (b : Byte) : (s.writeDT b).dt = b := rfl
@[simp] theorem State.writeDT_st (b : Byte) : (s.writeDT b).st = s.st := rfl
@[simp] theorem State.writeDT_keys (b : Byte) : (s.writeDT b).keys = s.keys := rfl
@[simp] theorem State.writeDT_keyq (b : Byte) : (s.writeDT b).keyq = s.keyq := rfl
@[simp] theorem State.writeDT_status (b : Byte) : (s.writeDT b).status = s.status := rfl
@[simp] theorem State.writeDT_skip (b : Byte) : (s.writeDT b).skip = s.skip := rfl
@[simp] theorem State.writeDT_snapshots (b : Byte) : (s.writeDT b).snapshots = s.snapshots := rfl
@[simp] theorem State.writeDT_mem (b : Byte) : (s.writeDT b).mem = s.mem := rfl
@[simp] theorem State.writeDT_cfg (b : Byte) : (s.writeDT b).cfg = s.cfg := rfl
@[simp] theorem State.writeDT_agenda (b : Byte) : (s.writeDT b).agenda = s.agenda := rfl
@[simp] theorem State.writeDT_supply (b : Byte) : (s.writeDT b).supply = s.supply := rfl
@[simp] theorem State.writeDT_draws (b : Byte) : (s.writeDT b).draws = s.draws := rfl

/-! `writeST` -/

@[simp] theorem State.writeST_v (b : Byte) : (s.writeST b).v = s.v := rfl
@[simp] theorem State.writeST_i (b : Byte) : (s.writeST b).i = s.i := rfl
@[simp] theorem State.writeST_pc (b : Byte) : (s.writeST b).pc = s.pc := rfl
@[simp] theorem State.writeST_stack (b : Byte) : (s.writeST b).stack = s.stack := rfl
@[simp] theorem State.writeST_sp (b : Byte) : (s.writeST b).sp = s.sp := rfl
@[simp] theorem State.writeST_fb (b : Byte) : (s.writeST b).fb = s.fb := rfl
@[simp] theorem State.writeST_dt (b : Byte) : (s.writeST b).dt = s.dt := rfl
@[simp] theorem State.writeST_st (b : Byte) : (s.writeST b).st = b := rfl
@[simp] theorem State.writeST_keys (b : Byte) : (s.writeST b).keys = s.keys := rfl
@[simp] theorem State.writeST_keyq (b : Byte) : (s.writeST b).keyq = s.keyq := rfl
@[simp] theorem State.writeST_status (b : Byte) : (s.writeST b).status = s.status := rfl
@[simp] theorem State.writeST_skip (b : Byte) : (s.writeST b).skip = s.skip := rfl
@[simp] theorem State.writeST_snapshots (b : Byte) : (s.writeST b).snapshots = s.snapshots := rfl
@[simp] theorem State.writeST_mem (b : Byte) : (s.writeST b).mem = s.mem := rfl
@[simp] theorem State.writeST_cfg (b : Byte) : (s.writeST b).cfg = s.cfg := rfl
@[simp] theorem State.writeST_agenda (b : Byte) : (s.writeST b).agenda = s.agenda := rfl
@[simp] theorem State.writeST_supply (b : Byte) : (s.writeST b).supply = s.supply := rfl
@[simp] theorem State.writeST_draws (b : Byte) : (s.writeST b).draws = s.draws := rfl

/-! `tickDT` -/

@[simp] theorem State.tickDT_v : (s.tickDT).v = s.v := rfl
@[simp] theorem State.tickDT_i : (s.tickDT).i = s.i := rfl
@[simp] theorem State.tickDT_pc : (s.tickDT).pc = s.pc := rfl
@[simp] theorem State.tickDT_stack : (s.tickDT).stack = s.stack := rfl
@[simp] theorem State.tickDT_sp : (s.tickDT).sp = s.sp := rfl
@[simp] theorem State.tickDT_fb : (s.tickDT).fb = s.fb := rfl
@[simp] theorem State.tickDT_dt : (s.tickDT).dt = countDown s.dt := rfl
@[simp] theorem State.tickDT_st : (s.tickDT).st = s.st := rfl
@[simp] theorem State.tickDT_keys : (s.tickDT).keys = s.keys := rfl
@[simp] theorem State.tickDT_keyq : (s.tickDT).keyq = s.keyq := rfl
@[simp] theorem State.tickDT_status : (s.tickDT).status = s.status := rfl
@[simp] theorem State.tickDT_skip : (s.tickDT).skip = s.skip := rfl
@[simp] theorem State.tickDT_snapshots : (s.tickDT).snapshots = s.snapshots := rfl
@[simp] theorem State.tickDT_mem : (s.tickDT).mem = s.mem := rfl
@[simp] theorem State.tickDT_cfg : (s.tickDT).cfg = s.cfg := rfl
@[simp] theorem State.tickDT_agenda : (s.tickDT).agenda = s.agenda := rfl
@[simp] theorem State.tickDT_supply : (s.tickDT).supply = s.supply := rfl
@[simp] theorem State.tickDT_draws : (s.tickDT).draws = s.draws := rfl

/-! `tickST` -/

@[simp] theorem State.tickST_v : (s.tickST).v = s.v := rfl
@[simp] theorem State.tickST_i : (s.tickST).i = s.i := rfl
@[simp] theorem State.tickST_pc : (s.tickST).pc = s.pc := rfl
@[simp] theorem State.tickST_stack : (s.tickST).stack = s.stack := rfl
@[simp] theorem State.tickST_sp : (s.tickST).sp = s.sp := rfl
@[simp] theorem State.tickST_fb : (s.tickST).fb = s.fb := rfl
@[simp] theorem State.tickST_dt : (s.tickST).dt = s.dt := rfl
@[simp] theorem State.tickST_st : (s.tickST).st = countDown s.st := rfl
@[simp] theorem State.tickST_keys : (s.tickST).keys = s.keys := rfl
@[simp] theorem State.tickST_keyq : (s.tickST).keyq = s.keyq := rfl
@[simp] theorem State.tickST_status : (s.tickST).status = s.status := rfl
@[simp] theorem State.tickST_skip : (s.tickST).skip = s.skip := rfl
@[simp] theorem State.tickST_snapshots : (s.tickST).snapshots = s.snapshots := rfl
@[simp] theorem State.tickST_mem : (s.tickST).mem = s.mem := rfl
@[simp] theorem State.tickST_cfg : (s.tickST).cfg = s.cfg := rfl
@[simp] theorem State.tickST_agenda : (s.tickST).agenda = s.agenda := rfl
@[simp] theorem State.tickST_supply : (s.tickST).supply = s.supply := rfl
@[simp] theorem State.tickST_draws : (s.tickST).draws = s.draws := rfl

/-! `enqueue` -/

@[simp] theorem State.enqueue_v (e : KeyEvent) : (s.enqueue e).v = s.v := rfl
@[simp] theorem State.enqueue_i (e : KeyEvent) : (s.enqueue e).i = s.i := rfl
@[simp] theorem State.enqueue_pc (e : KeyEvent) : (s.enqueue e).pc = s.pc := rfl
@[simp] theorem State.enqueue_stack (e : KeyEvent) : (s.enqueue e).stack = s.stack := rfl
@[simp] theorem State.enqueue_sp (e : KeyEvent) : (s.enqueue e).sp = s.sp := rfl
@[simp] theorem State.enqueue_fb (e : KeyEvent) : (s.enqueue e).fb = s.fb := rfl
@[simp] theorem State.enqueue_dt (e : KeyEvent) : (s.enqueue e).dt = s.dt := rfl
@[simp] theorem State.enqueue_st (e : KeyEvent) : (s.enqueue e).st = s.st := rfl
@[simp] theorem State.enqueue_keys (e : KeyEvent) : (s.enqueue e).keys = s.keys := rfl
@[simp] theorem State.enqueue_keyq (e : KeyEvent) : (s.enqueue e).keyq = s.keyq ++ [e] := rfl
@[simp] theorem State.enqueue_status (e : KeyEvent) : (s.enqueue e).status = s.status := rfl
@[simp] theorem State.enqueue_skip (e : KeyEvent) : (s.enqueue e).skip = s.skip := rfl
@[simp] theorem State.enqueue_snapshots (e : KeyEvent) : (s.enqueue e).snapshots = s.snapshots := rfl
@[simp] theorem State.enqueue_mem (e : KeyEvent) : (s.enqueue e).mem = s.mem := rfl
@[simp] theorem State.enqueue_cfg (e : KeyEvent) : (s.enqueue e).cfg = s.cfg := rfl
@[simp] theorem State.enqueue_agenda (e : KeyEvent) : (s.enqueue e).agenda = s.agenda := rfl
@[simp] theorem State.enqueue_supply (e : KeyEvent) : (s.enqueue e).supply = s.supply := rfl
@[simp] theorem State.enqueue_draws (e : KeyEvent) : (s.enqueue e).draws = s.draws := rfl

/-! `drainKeys` -/

@[simp] theorem State.drainKeys_v : (s.drainKeys).v = s.v := rfl
@[simp] theorem State.drainKeys_i : (s.drainKeys).i = s.i := rfl
@[simp] theorem State.drainKeys_pc : (s.drainKeys).pc = s.pc := rfl
@[simp] theorem State.drainKeys_stack : (s.drainKeys).stack = s.stack := rfl
@[simp] theorem State.drainKeys_sp : (s.drainKeys).sp = s.sp := rfl
@[simp] theorem State.drainKeys_fb : (s.drainKeys).fb = s.fb := rfl
@[simp] theorem State.drainKeys_dt : (s.drainKeys).dt = s.dt := rfl
@[simp] theorem State.drainKeys_st : (s.drainKeys).st = s.st := rfl
@[simp] theorem State.drainKeys_keys : (s.drainKeys).keys = s.keyq.foldl applyKey s.keys := rfl
@[simp] theorem State.drainKeys_keyq : (s.drainKeys).keyq = [] := rfl
@[simp] theorem State.drainKeys_status : (s.drainKeys).status = s.status := rfl
@[simp] theorem State.drainKeys_skip : (s.drainKeys).skip = s.skip := rfl
@[simp] theorem State.drainKeys_snapshots : (s.drainKeys).snapshots = s.snapshots := rfl
@[simp] theorem State.drainKeys_mem : (s.drainKeys).mem = s.mem := rfl
@[simp] theorem State.drainKeys_cfg : (s.drainKeys).cfg = s.cfg := rfl
@[simp] theorem State.drainKeys_agenda : (s.drainKeys).agenda = s.agenda := rfl
@[simp] theorem State.drainKeys_supply : (s.drainKeys).supply = s.supply := rfl
@[simp] theorem State.drainKeys_draws : (s.drainKeys).draws = s.draws := rfl

/-! `countDraw` -/

@[simp] theorem State.countDraw_v : (s.countDraw).v = s.v := rfl
@[simp] theorem State.countDraw_i : (s.countDraw).i = s.i := rfl
@[simp] theorem State.countDraw_pc : (s.countDraw).pc = s.pc := rfl
@[simp] theorem State.countDraw_stack : (s.countDraw).stack = s.stack := rfl
@[simp] theorem State.countDraw_sp : (s.countDraw).sp = s.sp := rfl
@[simp] theorem State.countDraw_fb : (s.countDraw).fb = s.fb := rfl
@[simp] theorem State.countDraw_dt : (s.countDraw).dt = s.dt := rfl
@[simp] theorem State.countDraw_st : (s.countDraw).st = s.st := rfl
@[simp] theorem State.countDraw_keys : (s.countDraw).keys = s.keys := rfl
@[simp] theorem State.countDraw_keyq : (s.countDraw).keyq = s.keyq := rfl
@[simp] theorem State.countDraw_status : (s.countDraw).status = s.status := rfl
@[simp] theorem State.countDraw_skip : (s.countDraw).skip = s.skip := rfl
@[simp] theorem State.countDraw_snapshots : (s.countDraw).snapshots = s.snapshots := rfl
@[simp] theorem State.countDraw_mem : (s.countDraw).mem = s.mem := rfl
@[simp] theorem State.countDraw_cfg : (s.countDraw).cfg = s.cfg := rfl
@[simp] theorem State.countDraw_agenda : (s.countDraw).agenda = s.agenda := rfl
@[simp] theorem State.countDraw_supply : (s.countDraw).supply = s.supply := rfl
@[simp] theorem State.countDraw_draws : (s.countDraw).draws = s.draws + 1 := rfl

/-! `writeVFlag` -/

@[simp] theorem State.writeVFlag_v (x : RegIdx) (b : Byte) (c : Bool) : (s.writeVFlag x b c).v = ((s.v.set x.toNat b x.isLt).set vf.toNat (flagByte c) vf.isLt) := rfl
@[simp] theorem State.writeVFlag_i (x : RegIdx) (b : Byte) (c : Bool) : (s.writeVFlag x b c).i = s.i := rfl
@[simp] theorem State.writeVFlag_pc (x : RegIdx) (b : Byte) (c : Bool) : (s.writeVFlag x b c).pc = s.pc := rfl
@[simp] theorem State.writeVFlag_stack (x : RegIdx) (b : Byte) (c : Bool) : (s.writeVFlag x b c).stack = s.stack := rfl
@[simp] theorem State.writeVFlag_sp (x : RegIdx) (b : Byte) (c : Bool) : (s.writeVFlag x b c).sp = s.sp := rfl
@[simp] theorem State.writeVFlag_fb (x : RegIdx) (b : Byte) (c : Bool) : (s.writeVFlag x b c).fb = s.fb := rfl
@[simp] theorem State.writeVFlag_dt (x : RegIdx) (b : Byte) (c : Bool) : (s.writeVFlag x b c).dt = s.dt := rfl
@[simp] theorem State.writeVFlag_st (x : RegIdx) (b : Byte) (c : Bool) : (s.writeVFlag x b c).st = s.st := rfl
@[simp] theorem State.writeVFlag_keys (x : RegIdx) (b : Byte) (c : Bool) : (s.writeVFlag x b c).keys = s.keys := rfl
@[simp] theorem State.writeVFlag_keyq (x : RegIdx) (b : Byte) (c : Bool) : (s.writeVFlag x b c).keyq = s.keyq := rfl
@[simp] theorem State.writeVFlag_status (x : RegIdx) (b : Byte) (c : Bool) : (s.writeVFlag x b c).status = s.status := rfl
@[simp] theorem State.writeVFlag_skip (x : RegIdx) (b : Byte) (c : Bool) : (s.writeVFlag x b c).skip = s.skip := rfl
@[simp] theorem State.writeVFlag_snapshots (x : RegIdx) (b : Byte) (c : Bool) : (s.writeVFlag x b c).snapshots = s.snapshots := rfl
@[simp] theorem State.writeVFlag_mem (x : RegIdx) (b : Byte) (c : Bool) : (s.writeVFlag x b c).mem = s.mem := rfl
@[simp] theorem State.writeVFlag_cfg (x : RegIdx) (b : Byte) (c : Bool) : (s.writeVFlag x b c).cfg = s.cfg := rfl
@[simp] theorem State.writeVFlag_agenda (x : RegIdx) (b : Byte) (c : Bool) : (s.writeVFlag x b c).agenda = s.agenda := rfl
@[simp] theorem State.writeVFlag_supply (x : RegIdx) (b : Byte) (c : Bool) : (s.writeVFlag x b c).supply = s.supply := rfl
@[simp] theorem State.writeVFlag_draws (x : RegIdx) (b : Byte) (c : Bool) : (s.writeVFlag x b c).draws = s.draws := rfl

/-! `refill`: the schedule's own update. -/

theorem State.refill_of_agenda {s : State} (h : s.agenda ≠ []) : s.refill = s := by
  unfold State.refill
  split
  · exact absurd ‹_› h
  · rfl
  · rfl

theorem State.refill_free {s : State} {n : Nat} (ha : s.agenda = []) (hs : s.supply = .free n) :
    s.refill = { s with agenda := roundMoves Config.otherMoves n, supply := .free (n + 1) } := by
  simp only [State.refill, ha, hs]

theorem State.refill_engineAlone {s : State} (hs : s.supply = .engineAlone) : s.refill = s := by
  unfold State.refill
  split
  · simp_all
  · rfl
  · rfl

/-- Refilling touches nothing but the agenda and the supply. -/
theorem State.refill_eq : s.refill = { s with agenda := s.refill.agenda, supply := s.refill.supply } := by
  unfold State.refill
  split <;> rfl


@[simp] theorem State.refill_v : s.refill.v = s.v := by rw [State.refill_eq]
@[simp] theorem State.refill_i : s.refill.i = s.i := by rw [State.refill_eq]
@[simp] theorem State.refill_pc : s.refill.pc = s.pc := by rw [State.refill_eq]
@[simp] theorem State.refill_stack : s.refill.stack = s.stack := by rw [State.refill_eq]
@[simp] theorem State.refill_sp : s.refill.sp = s.sp := by rw [State.refill_eq]
@[simp] theorem State.refill_fb : s.refill.fb = s.fb := by rw [State.refill_eq]
@[simp] theorem State.refill_dt : s.refill.dt = s.dt := by rw [State.refill_eq]
@[simp] theorem State.refill_st : s.refill.st = s.st := by rw [State.refill_eq]
@[simp] theorem State.refill_keys : s.refill.keys = s.keys := by rw [State.refill_eq]
@[simp] theorem State.refill_keyq : s.refill.keyq = s.keyq := by rw [State.refill_eq]
@[simp] theorem State.refill_status : s.refill.status = s.status := by rw [State.refill_eq]
@[simp] theorem State.refill_skip : s.refill.skip = s.skip := by rw [State.refill_eq]
@[simp] theorem State.refill_snapshots : s.refill.snapshots = s.snapshots := by rw [State.refill_eq]
@[simp] theorem State.refill_mem : s.refill.mem = s.mem := by rw [State.refill_eq]
@[simp] theorem State.refill_cfg : s.refill.cfg = s.cfg := by rw [State.refill_eq]
@[simp] theorem State.refill_draws : s.refill.draws = s.draws := by rw [State.refill_eq]
@[simp] theorem State.refill_refill : s.refill.refill = s.refill := by
  by_cases h : s.agenda = []
  · cases hs : s.supply with
    | free n => exact refill_of_agenda (by rw [refill_free h hs]; simp [roundMoves])
    | engineAlone => rw [refill_engineAlone hs, refill_engineAlone hs]
  · rw [refill_of_agenda h, refill_of_agenda h]

end Sys2Proof.Machine
end

