-- ==== Sys2Proof/Laws/Ops.lean ====
section
/-! SUPPORT. What each shared operation does, said once. -/

namespace Sys2Proof.Machine

variable (s : State)

/-! Registers. -/

/-- A register read depends on the register file alone. -/
theorem State.readV_congr {s t : State} (h : t.v = s.v) (r : RegIdx) : t.readV r = s.readV r := by
  unfold State.readV; simp only [h]

/-- A register read after one register was set. -/
theorem State.readV_set {s t : State} {x : RegIdx} {b : Byte} (h : t.v = s.v.set x.toNat b x.isLt) (r : RegIdx) :
    t.readV r = if r = x then b else s.readV r := by
  unfold State.readV
  simp only [h, Vector.getElem_set]
  by_cases hx : r = x
  · simp [hx]
  · have : x.toNat ≠ r.toNat := fun e => hx (BitVec.eq_of_toNat_eq e.symm)
    simp [hx, this]

@[simp] theorem State.readV_writeV (x r : RegIdx) (b : Byte) :
    (s.writeV x b).readV r = if r = x then b else s.readV r := State.readV_set rfl r

/-- The result, then the flag: VF holds the flag, the destination the result unless it is VF (10_state.md R25). -/
@[simp] theorem State.readV_writeVFlag (x r : RegIdx) (b : Byte) (c : Bool) :
    (s.writeVFlag x b c).readV r = if r = vf then flagByte c else if r = x then b else s.readV r := by
  simp [State.writeVFlag]

/-- Two register files that read alike are equal. -/
theorem State.v_ext {s t : State} (h : ∀ r, t.readV r = s.readV r) : t.v = s.v := by
  apply Vector.ext
  intro k hk
  have := h (BitVec.ofNat 4 k)
  unfold State.readV at this
  simpa [Nat.mod_eq_of_lt hk] using this

/-! Memory. -/

/-- A memory read depends on memory and the glyph table alone. -/
theorem State.byteAt_congr {s t : State} (hm : t.mem = s.mem) (hc : t.cfg = s.cfg) (a : Nat) :
    t.byteAt a = s.byteAt a := by
  unfold State.byteAt; rw [hm, hc]

/-- A byte read after a byte write inside memory. -/
theorem State.byteAt_memWrite {a : Nat} (ha : a ≤ 0xFFF) (b : Byte) (c : Nat) :
    (s.memWrite a b).byteAt c = if c = a then b else s.byteAt c := by
  unfold State.byteAt
  rw [State.memWrite_mem, State.memWrite_cfg, if_pos ha, Memory.read_write]

/-- A byte write keeps memory canonical. -/
theorem State.wf_memWrite {s : State} (h : Memory.wf s.cfg.font s.mem) (a : Nat) (b : Byte) :
    Memory.wf (s.memWrite a b).cfg.font (s.memWrite a b).mem := by
  rw [State.memWrite_mem, State.memWrite_cfg]
  split
  · rename_i ha; exact Memory.wf_write h ha
  · exact h

/-! Call stack (10_state.md R30, R31). -/

theorem State.push_eq_some (a : Word) (h : s.sp.val < 16) :
    s.push a = some { s with stack := s.stack.set s.sp.val a h, sp := ⟨s.sp.val + 1, by omega⟩ } := by
  simp [State.push, h]

theorem State.push_eq_none (a : Word) (h : s.sp.val = 16) : s.push a = none := by
  simp [State.push, h]

theorem State.pop_eq_some (h : 0 < s.sp.val) :
    s.pop = some (s.stack[s.sp.val - 1]'(by omega), { s with sp := ⟨s.sp.val - 1, by omega⟩ }) := by
  simp [State.pop, h]

theorem State.pop_eq_none (h : s.sp.val = 0) : s.pop = none := by
  simp [State.pop, h]

/-! The bounds check (43_index_memory.md R153). -/

theorem checkRange_eq_none {lo len : Nat} (h : len = 0 ∨ lo + len - 1 ≤ 0xFFF) : checkRange lo len = none := by
  unfold checkRange; rw [if_neg (by omega)]

theorem checkRange_eq_some {lo len : Nat} (h : 0 < len) (h' : 0xFFF < lo + len - 1) :
    checkRange lo len = some (BitVec.ofNat 16 (max lo 0x1000)) := by
  unfold checkRange; rw [if_pos ⟨h, h'⟩]

/-! Block transfers (43_index_memory.md R155, R156). -/

/-- A block store writes memory and nothing else. -/
theorem State.storeBlock_eq (base len : Nat) : s.storeBlock base len = { s with mem := (s.storeBlock base len).mem } := by
  induction len with
  | zero => rfl
  | succ k ih => rw [State.storeBlock, ih]; rfl

@[simp] theorem State.storeBlock_cfg (base len : Nat) : (s.storeBlock base len).cfg = s.cfg := by
  rw [State.storeBlock_eq]

@[simp] theorem State.storeBlock_i (base len : Nat) : (s.storeBlock base len).i = s.i := by
  rw [State.storeBlock_eq]

/-- What memory reads as after a block store inside memory. -/
theorem State.byteAt_storeBlock (base : Nat) {len : Nat} (h : base + len ≤ 0x1000) (c : Nat) :
    (s.storeBlock base len).byteAt c =
      if base ≤ c ∧ c < base + len then s.readV (BitVec.ofNat 4 (c - base)) else s.byteAt c := by
  induction len with
  | zero => rw [if_neg (by omega)]; rfl
  | succ k ih =>
    rw [State.storeBlock, State.byteAt_memWrite _ (by omega), ih (by omega)]
    by_cases hc : c = base + k
    · rw [if_pos hc, if_pos (by omega), hc, Nat.add_sub_cancel_left]
    · rw [if_neg hc]
      split_ifs <;> first | rfl | omega

/-- A block store keeps memory canonical. -/
theorem State.wf_storeBlock {s : State} (h : Memory.wf s.cfg.font s.mem) (base len : Nat) :
    Memory.wf (s.storeBlock base len).cfg.font (s.storeBlock base len).mem := by
  induction len with
  | zero => exact h
  | succ k ih => exact State.wf_memWrite ih _ _

/-- A block load writes general registers and nothing else. -/
theorem State.loadBlock_eq (base len : Nat) : s.loadBlock base len = { s with v := (s.loadBlock base len).v } := by
  induction len with
  | zero => rfl
  | succ k ih => rw [State.loadBlock, ih]; rfl

@[simp] theorem State.loadBlock_cfg (base len : Nat) : (s.loadBlock base len).cfg = s.cfg := by
  rw [State.loadBlock_eq]

@[simp] theorem State.loadBlock_i (base len : Nat) : (s.loadBlock base len).i = s.i := by
  rw [State.loadBlock_eq]

/-- What the registers read as after a block load. -/
theorem State.readV_loadBlock (base : Nat) {len : Nat} (h : len ≤ 16) (r : RegIdx) :
    (s.loadBlock base len).readV r = if r.toNat < len then s.byteAt (base + r.toNat) else s.readV r := by
  induction len with
  | zero => rfl
  | succ k ih =>
    rw [State.loadBlock, State.readV_writeV, ih (by omega)]
    have hk : (BitVec.ofNat 4 k).toNat = k := by simp; omega
    by_cases hr : r = BitVec.ofNat 4 k
    · have : r.toNat = k := by rw [hr, hk]
      rw [if_pos hr, if_pos (by omega), this]
    · have : r.toNat ≠ k := fun e => hr (BitVec.eq_of_toNat_eq (by rw [hk, e]))
      rw [if_neg hr]
      split_ifs <;> first | rfl | omega

/-- The increment of I is the only effect of `incrementI` (43_index_memory.md R155). -/
theorem State.incrementI_eq (len : Nat) :
    s.incrementI len = { s with i := if s.cfg.memoryIncrementsI = true then s.i + BitVec.ofNat 16 len else s.i } := by
  unfold State.incrementI State.writeI
  split <;> rfl

/-! The sprite draw (40_display.md R101, R103). -/

/-- Row by row, what a draw of `n` rows leaves: each row in range XORed with its mask, once. -/
theorem drawRows_row (base cx cy n : Nat) (r : Fin 32) :
    (drawRows s base cx cy n).1[r] =
      if cy ≤ r.val ∧ r.val < cy + n then s.fb[r] ^^^ spriteMask (s.byteAt (base + (r.val - cy))) cx else s.fb[r] := by
  induction n with
  | zero => rw [if_neg (by omega)]; rfl
  | succ k ih =>
    simp only [drawRows, xorRow]
    split
    · rename_i hk
      simp only [Fin.getElem_fin, Vector.getElem_set]
      simp only [Fin.getElem_fin] at ih
      split
      · rename_i he
        rw [if_pos (by omega)]
        have h2 := ih
        rw [if_neg (by omega)] at h2
        simp only [← he] at h2 ⊢
        rw [h2, Nat.add_sub_cancel_left]
      · rw [ih]
        split_ifs <;> first | rfl | omega
    · rw [ih]
      have := r.isLt
      split_ifs <;> first | rfl | omega

/-- The collision of a draw: some drawn row's mask met a lit pixel of that row as it stood before the draw. -/
theorem drawRows_collided (base cx cy n : Nat) :
    (drawRows s base cx cy n).2 = true ↔
      ∃ k, k < n ∧ ∃ h : cy + k < 32, s.fb[cy + k] &&& spriteMask (s.byteAt (base + k)) cx ≠ 0 := by
  induction n with
  | zero => simp [drawRows]
  | succ k ih =>
    have hrow : ∀ h : cy + k < 32, (drawRows s base cx cy k).1[cy + k] = s.fb[cy + k] := by
      intro h
      have := drawRows_row s base cx cy k ⟨cy + k, h⟩
      rw [if_neg (by simp)] at this
      exact this
    simp only [drawRows, Bool.or_eq_true, ih, xorRow]
    constructor
    · rintro (⟨j, hj, h⟩ | h)
      · exact ⟨j, by omega, h⟩
      · split at h
        · rename_i hk
          rw [hrow hk] at h
          exact ⟨k, by omega, hk, by simpa using h⟩
        · simp at h
    · rintro ⟨j, hj, hlt, h⟩
      rcases Nat.lt_succ_iff_lt_or_eq.mp hj with hj | rfl
      · exact .inl ⟨j, hj, hlt, h⟩
      · right
        rw [dif_pos hlt, hrow hlt]
        simpa using h

/-- A bit of a sprite mask: sprite bit 7 - d on column cx + d (40_display.md R102). -/
theorem getLsbD_spriteMask (b : Byte) {cx : Nat} (c : Fin 64) :
    (spriteMask b cx).getLsbD (63 - c.val) =
      (decide (cx ≤ c.val ∧ c.val < cx + 8) && b.getLsbD (7 - (c.val - cx))) := by
  have := c.isLt
  simp only [spriteMask, BitVec.getLsbD_ushiftRight, BitVec.getLsbD_shiftLeft, BitVec.getLsbD_setWidth]
  by_cases h1 : cx ≤ c.val
  · by_cases h2 : c.val < cx + 8
    · have e : cx + (63 - c.val) - 56 = 7 - (c.val - cx) := by omega
      have h3 : cx + (63 - c.val) < 64 := by omega
      have h4 : ¬ cx + (63 - c.val) < 56 := by omega
      have h5 : 7 - (c.val - cx) < 64 := by omega
      simp [h1, h2, e, h3, h4, h5]
    · have : cx + (63 - c.val) < 56 := by omega
      simp [h2, this]
  · have : ¬ cx + (63 - c.val) < 64 := by omega
    simp [h1, this]

end Sys2Proof.Machine
end

