-- ==== Sys2Proof/Laws/Exec.lean ====
section
/-! SUPPORT. What a meaning and a cycle can do, said once: an instruction either raises its own fault and changes
nothing else, or completes, leaving the status and what no instruction writes as they are. -/

namespace Sys2Proof.Machine

/-- When instruction `i` raises fault `k` with address `o` (60_exceptions.md R171). -/
def RaisesFault (i : Instr) (s : State) (k : FaultKind) (o : Option Word) : Prop :=
  match i with
  | .sys _ => k = .machineCodeCall ∧ o = none
  | .ret => k = .stackUnderflow ∧ o = none ∧ s.sp.val = 0
  | .call _ => k = .stackOverflow ∧ o = none ∧ s.sp.val = 16
  | .addI x => k = .indexOverflow ∧ o = none ∧ 0xFFFF < s.i.toNat + (s.readV x).toNat
  | .drw _ _ n => k = .memoryOutOfBounds ∧ o = some (BitVec.ofNat 16 (max s.i.toNat 0x1000))
      ∧ 0 < n.toNat ∧ 0xFFF < s.i.toNat + n.toNat - 1
  | .ldB _ => k = .memoryOutOfBounds ∧ o = some (BitVec.ofNat 16 (max s.i.toNat 0x1000)) ∧ 0xFFF < s.i.toNat + 2
  | .storeRegs x | .loadRegs x => k = .memoryOutOfBounds ∧ o = some (BitVec.ofNat 16 (max s.i.toNat 0x1000))
      ∧ 0xFFF < s.i.toNat + x.toNat
  | _ => False

/-- What every completed instruction leaves as it is. -/
structure Completes (s t : State) : Prop where
  status : t.status = s.status
  keys : t.keys = s.keys
  keyq : t.keyq = s.keyq
  cfg : t.cfg = s.cfg
  agenda : t.agenda = s.agenda
  supply : t.supply = s.supply
  wf : Memory.wf s.cfg.font s.mem → Memory.wf t.cfg.font t.mem

/-- The bounds check answers the lowest offending address exactly when the range leaves memory. -/
theorem checkI_cases (s : State) (len : Nat) :
    (s.checkI len = some (BitVec.ofNat 16 (max s.i.toNat 0x1000)) ∧ 0 < len ∧ 0xFFF < s.i.toNat + len - 1)
      ∨ (s.checkI len = none ∧ (len = 0 ∨ s.i.toNat + len - 1 ≤ 0xFFF)) := by
  by_cases h : 0 < len ∧ 0xFFF < s.i.toNat + len - 1
  · exact .inl ⟨checkRange_eq_some h.1 h.2, h⟩
  · have h' : len = 0 ∨ s.i.toNat + len - 1 ≤ 0xFFF := by omega
    exact .inr ⟨checkRange_eq_none h', h'⟩

/-- Every meaning raises its fault, by the one shared operation, or completes. -/
theorem exec_raises_or_completes (i : Instr) (s : State) :
    (∃ k o, RaisesFault i s k o ∧ exec i s = .next (s.raiseFor i k o)) ∨ ∃ t, exec i s = .next t ∧ Completes s t := by
  cases i
  case sys nnn => exact .inl ⟨_, _, ⟨rfl, rfl⟩, rfl⟩
  case ret =>
    by_cases h : s.sp.val = 0
    · exact .inl ⟨_, _, ⟨rfl, rfl, h⟩, by simp only [exec, execRet, State.pop_eq_none _ h]⟩
    · refine .inr ⟨_, by simp only [exec, execRet, State.pop_eq_some _ (Nat.pos_of_ne_zero h)]; rfl, ?_⟩
      exact ⟨rfl, rfl, rfl, rfl, rfl, rfl, id⟩
  case call nnn =>
    by_cases h : s.sp.val < 16
    · refine .inr ⟨_, by simp only [exec, execCall, State.push_eq_some _ _ h]; rfl, ?_⟩
      exact ⟨rfl, rfl, rfl, rfl, rfl, rfl, id⟩
    · have h : s.sp.val = 16 := by omega
      exact .inl ⟨_, _, ⟨rfl, rfl, h⟩, by simp only [exec, execCall, State.push_eq_none _ _ h]⟩
  case addI x =>
    by_cases h : 0xFFFF < s.i.toNat + (s.readV x).toNat
    · exact .inl ⟨_, _, ⟨rfl, rfl, h⟩, by simp only [exec, execAddI]; rw [if_pos h]⟩
    · refine .inr ⟨_, by simp only [exec, execAddI]; rw [if_neg h], ?_⟩
      exact ⟨rfl, rfl, rfl, rfl, rfl, rfl, id⟩
  case drw x y n =>
    rcases checkI_cases s n.toNat with ⟨hc, h⟩ | ⟨hc, -⟩
    · exact .inl ⟨_, _, ⟨rfl, rfl, h⟩, by simp only [exec, execDrw, hc]⟩
    · refine .inr ⟨_, by simp only [exec, execDrw, hc]; rfl, ?_⟩
      exact ⟨rfl, rfl, rfl, rfl, rfl, rfl, id⟩
  case ldB x =>
    rcases checkI_cases s 3 with ⟨hc, h⟩ | ⟨hc, -⟩
    · exact .inl ⟨_, _, ⟨rfl, rfl, h.2⟩, by simp only [exec, execLdB, hc]⟩
    · refine .inr ⟨_, by simp only [exec, execLdB, hc]; rfl, ?_⟩
      refine ⟨rfl, rfl, rfl, rfl, rfl, rfl, fun h => ?_⟩
      exact State.wf_memWrite (State.wf_memWrite (State.wf_memWrite h _ _) _ _) _ _
  case storeRegs x =>
    rcases checkI_cases s (x.toNat + 1) with ⟨hc, h⟩ | ⟨hc, -⟩
    · exact .inl ⟨_, _, ⟨rfl, rfl, by omega⟩, by simp only [exec, execStoreRegs, hc]⟩
    · refine .inr ⟨_, by simp only [exec, execStoreRegs, hc, State.incrementI_eq]; rfl, ?_⟩
      refine ⟨?_, ?_, ?_, ?_, ?_, ?_, fun h => ?_⟩
      iterate 6 rw [State.storeBlock_eq]
      exact State.wf_storeBlock h _ _
  case loadRegs x =>
    rcases checkI_cases s (x.toNat + 1) with ⟨hc, h⟩ | ⟨hc, -⟩
    · exact .inl ⟨_, _, ⟨rfl, rfl, by omega⟩, by simp only [exec, execLoadRegs, hc]⟩
    · refine .inr ⟨_, by simp only [exec, execLoadRegs, hc, State.incrementI_eq]; rfl, ?_⟩
      refine ⟨?_, ?_, ?_, ?_, ?_, ?_, fun h => ?_⟩
      iterate 6 rw [State.loadBlock_eq]
      rw [State.loadBlock_eq]; exact h
  case ldVxK x =>
    cases h : s.lowestHeld with
    | some k =>
      refine .inr ⟨s.writeV x (BitVec.ofNat 8 k), by simp only [exec, execLdVxK, h], ?_⟩
      exact ⟨rfl, rfl, rfl, rfl, rfl, rfl, id⟩
    | none =>
      refine .inr ⟨s.rewindPc, by simp only [exec, execLdVxK, h], ?_⟩
      exact ⟨rfl, rfl, rfl, rfl, rfl, rfl, id⟩
  all_goals exact .inr ⟨_, rfl, rfl, rfl, rfl, rfl, rfl, rfl, id⟩

/-- A cycle that fetches an instruction (10_state.md R22): the execute step runs it, then the skip is taken. -/
theorem decodeAndExecute_instr {w : Word} {i : Instr} (h : decode w = .instr i) (s : State) :
    decodeAndExecute w s = finishCycle (exec i { s.advancePc with skip := false }) := by
  simp only [decodeAndExecute, h]

/-- A cycle that fetches a word that is no instruction (10_state.md R22 step 3). -/
theorem decodeAndExecute_unsupported {w u : Word} (h : decode w = .unsupported u) (s : State) :
    decodeAndExecute w s = .next (s.advancePc.raise .unsupportedOpcode (some w) s.pc none) := by
  simp only [decodeAndExecute, h]

end Sys2Proof.Machine
end

