-- ==== Sys2Proof/Laws/Engine.lean ====
section
/-! SUPPORT. What a step of the machine can do in the engine's turn, and what it does to the schedule, said once. -/

namespace Sys2Proof

open Machine

/-- In the engine's turn the step is one cycle, with the key events drained and the schedule moved on. -/
theorem step_of_enginesTurn {s : State} {rest : List AgentMove} (h : EnginesTurn s rest) :
    step s = State.fetchAndExecute
      { s with agenda := rest, supply := s.refill.supply, keys := s.keyq.foldl applyKey s.keys, keyq := [] } := by
  obtain ⟨hr, h⟩ := h
  unfold step nextMove
  rw [s.refill_eq]
  obtain h | ⟨h, rfl⟩ := h
  · unfold State.makeMove; simp only [h, runMove, engineMove, hr]; rfl
  · unfold State.makeMove; simp only [h, State.unscheduled, hr]; rfl

/-- Step 5 of the cycle, as one record update (10_state.md R22, R23). -/
theorem endCycle_eq (t : State) :
    t.endCycle = if t.status = .running ∧ t.skip = true then { t with pc := t.pc + 2 } else t := by
  unfold State.endCycle State.advancePc
  split
  · rename_i h; simp only [h, true_and]
  · rename_i h; simp [h]

/-- What an engine's turn can do: fault at the fetch, fault at the decode, raise the instruction's own fault, or
complete the instruction and end the cycle. -/
theorem enginesTurn_cases {s t : State} {rest : List AgentMove} (h : EnginesTurn s rest) (hs : step s = .next t) :
    (0xFFF < s.pc.toNat + 1 ∧
      t = State.raise { s with agenda := rest, supply := s.refill.supply, keys := s.keyq.foldl applyKey s.keys, keyq := [] }
        .fetchOutOfBounds none s.pc none)
    ∨ (s.pc.toNat + 1 ≤ 0xFFF ∧ (∃ u, decode s.fetchWord = .unsupported u) ∧
      t = State.raise
        { s with
          agenda := rest, supply := s.refill.supply, keys := s.keyq.foldl applyKey s.keys, keyq := [], pc := s.pc + 2 }
        .unsupportedOpcode (some s.fetchWord) s.pc none)
    ∨ (s.pc.toNat + 1 ≤ 0xFFF ∧ ∃ i, decode s.fetchWord = .instr i ∧
      ((∃ k o, RaisesFault i (atExecute s rest) k o ∧ t = (atExecute s rest).raiseFor i k o)
        ∨ ∃ u, exec i (atExecute s rest) = .next u ∧ Completes (atExecute s rest) u ∧ t = u.endCycle)) := by
  rw [step_of_enginesTurn h] at hs
  unfold State.fetchAndExecute at hs
  split at hs
  · rename_i hp; cases hs; exact .inl ⟨hp, rfl⟩
  · rename_i hp
    have hp : s.pc.toNat + 1 ≤ 0xFFF := Nat.le_of_not_lt hp
    refine .inr ?_
    cases hd : decode s.fetchWord with
    | unsupported u =>
      cases (decodeAndExecute_unsupported hd _).symm.trans hs
      exact .inl ⟨hp, ⟨u, rfl⟩, rfl⟩
    | instr i =>
      refine .inr ⟨hp, i, rfl, ?_⟩
      replace hs := (decodeAndExecute_instr hd _).symm.trans hs
      rcases exec_raises_or_completes i (atExecute s rest) with ⟨k, o, hr, he⟩ | ⟨u, he, hc⟩
      · cases (congrArg finishCycle he).symm.trans hs
        exact .inl ⟨k, o, hr, rfl⟩
      · cases (congrArg finishCycle he).symm.trans hs
        exact .inr ⟨u, he, hc, rfl⟩

/-- A cycle always answers a next state, with the schedule as it was. -/
theorem cycle_next (s : State) : ∃ t, cycle s = .next t ∧ t.agenda = s.agenda ∧ t.supply = s.supply := by
  unfold cycle State.fetchAndExecute
  split
  · exact ⟨_, rfl, rfl, rfl⟩
  · cases hd : decode s.drainKeys.fetchWord with
    | unsupported u => exact ⟨_, decodeAndExecute_unsupported hd _, rfl, rfl⟩
    | instr i =>
      rw [decodeAndExecute_instr hd]
      rcases exec_raises_or_completes i { s.drainKeys.advancePc with skip := false } with
        ⟨k, o, -, he⟩ | ⟨u, he, hc⟩
      · rw [he]; exact ⟨_, rfl, rfl, rfl⟩
      · rw [he]
        refine ⟨u.endCycle, rfl, ?_, ?_⟩ <;> rw [endCycle_eq] <;> split
        exacts [hc.agenda, hc.agenda, hc.supply, hc.supply]

/-- No round of the free schedule ends the machine. -/
theorem not_mem_roundMoves (others : Nat → List AgentMove) (n : Nat) : .terminate ∉ roundMoves others n := by
  unfold roundMoves dueMoveOfRound
  simp only [List.mem_append, List.mem_filter, List.mem_singleton, not_or]
  exact ⟨by simp, by split <;> simp⟩

/-- Every agent's move but the host's termination answers a next state, with the schedule as it was. -/
theorem runMove_next {m : AgentMove} (h : m ≠ .terminate) (s : State) :
    ∃ t, runMove m s = .next t ∧ t.agenda = s.agenda ∧ t.supply = s.supply := by
  cases m
  case terminate => exact absurd rfl h
  case engine =>
    cases hs : s.status with
    | halted r => exact ⟨s, by simp only [runMove, engineMove, hs], rfl, rfl⟩
    | running => simp only [runMove, engineMove, hs]; exact cycle_next s
  all_goals exact ⟨_, rfl, rfl, rfl⟩

/-- What a step does to the schedule: it takes the first move off the refilled agenda, where there is one. -/
theorem step_schedule {s t : State} (h : step s = .next t) :
    t.supply = s.refill.supply ∧
      ((s.refill.agenda = [] ∧ t.agenda = []) ∨ ∃ m, s.refill.agenda = m :: t.agenda ∧ m ≠ .terminate) := by
  unfold step nextMove State.makeMove at h
  split at h
  · rename_i ha
    unfold State.unscheduled at h
    split at h
    · obtain ⟨u, hu, hua, hus⟩ := cycle_next s.refill
      cases hu.symm.trans h
      exact ⟨hus, .inl ⟨ha, hua.trans ha⟩⟩
    · cases h
  · rename_i m rest ha
    have hm : m ≠ .terminate := by rintro rfl; cases h
    obtain ⟨u, hu, hua, hus⟩ := runMove_next hm { s.refill with agenda := rest }
    cases hu.symm.trans h
    exact ⟨hus, .inr ⟨m, hua ▸ ha, hm⟩⟩

/-- On the free schedule a step always answers, so long as no termination stands on the agenda. -/
theorem step_on_free_supply {s : State} {n : Nat} (hs : s.supply = .free n) (ha : .terminate ∉ s.agenda) :
    ∃ t, step s = .next t ∧ (∃ k, t.supply = .free k) ∧ .terminate ∉ t.agenda := by
  obtain ⟨m, rest, hr⟩ : ∃ m rest, s.refill.agenda = m :: rest := by
    by_cases h : s.agenda = []
    · rw [State.refill_free h hs]; unfold roundMoves
      exact List.exists_cons_of_ne_nil (by simp)
    · rw [State.refill_of_agenda h]; exact List.exists_cons_of_ne_nil h
  have hk : ∃ k, s.refill.supply = .free k := by
    by_cases h : s.agenda = []
    · exact ⟨_, by rw [State.refill_free h hs]⟩
    · exact ⟨_, by rw [State.refill_of_agenda h, hs]⟩
  have hn : .terminate ∉ s.refill.agenda := by
    by_cases h : s.agenda = []
    · rw [State.refill_free h hs]; exact not_mem_roundMoves _ _
    · rwa [State.refill_of_agenda h]
  rw [hr, List.mem_cons, not_or] at hn
  obtain ⟨u, hu, hua, hus⟩ := runMove_next (Ne.symm hn.1) { s.refill with agenda := rest }
  exact ⟨u, by unfold step nextMove State.makeMove; rw [hr]; exact hu, hus ▸ hk, hua ▸ hn.2⟩

end Sys2Proof
end

