-- ==== Sys2Proof/Laws/PerInstr.lean ====
section
/-! SUPPORT. Per-instruction laws: the family MatchesRow says that an instruction's word has the bits its row of the
opcode table fixes. -/

namespace Sys2Proof.Laws

/-- The word of `i` matches its row of spec/opcode_table.json. -/
def MatchesRow.Statement (i : Instr) : Prop := encode i &&& i.mask = i.matchBits

theorem MatchesRow.cls : MatchesRow.Statement (.cls) :=
  by unfold MatchesRow.Statement; decide

theorem MatchesRow.ret : MatchesRow.Statement (.ret) :=
  by unfold MatchesRow.Statement; decide

theorem MatchesRow.sys (nnn : Addr) : MatchesRow.Statement (.sys nnn) :=
  (mask_layoutA _ nnn).trans rfl

theorem MatchesRow.jp (nnn : Addr) : MatchesRow.Statement (.jp nnn) :=
  (mask_layoutA _ nnn).trans rfl

theorem MatchesRow.call (nnn : Addr) : MatchesRow.Statement (.call nnn) :=
  (mask_layoutA _ nnn).trans rfl

theorem MatchesRow.seImm (x : RegIdx) (nn : Byte) : MatchesRow.Statement (.seImm x nn) :=
  (mask_layoutXB _ x nn).trans rfl

theorem MatchesRow.sneImm (x : RegIdx) (nn : Byte) : MatchesRow.Statement (.sneImm x nn) :=
  (mask_layoutXB _ x nn).trans rfl

theorem MatchesRow.seReg (x : RegIdx) (y : RegIdx) : MatchesRow.Statement (.seReg x y) :=
  (mask_layoutXYN _ x y _).trans rfl

theorem MatchesRow.ldImm (x : RegIdx) (nn : Byte) : MatchesRow.Statement (.ldImm x nn) :=
  (mask_layoutXB _ x nn).trans rfl

theorem MatchesRow.addImm (x : RegIdx) (nn : Byte) : MatchesRow.Statement (.addImm x nn) :=
  (mask_layoutXB _ x nn).trans rfl

theorem MatchesRow.ldReg (x : RegIdx) (y : RegIdx) : MatchesRow.Statement (.ldReg x y) :=
  (mask_layoutXYN _ x y _).trans rfl

theorem MatchesRow.orReg (x : RegIdx) (y : RegIdx) : MatchesRow.Statement (.orReg x y) :=
  (mask_layoutXYN _ x y _).trans rfl

theorem MatchesRow.andReg (x : RegIdx) (y : RegIdx) : MatchesRow.Statement (.andReg x y) :=
  (mask_layoutXYN _ x y _).trans rfl

theorem MatchesRow.xorReg (x : RegIdx) (y : RegIdx) : MatchesRow.Statement (.xorReg x y) :=
  (mask_layoutXYN _ x y _).trans rfl

theorem MatchesRow.addReg (x : RegIdx) (y : RegIdx) : MatchesRow.Statement (.addReg x y) :=
  (mask_layoutXYN _ x y _).trans rfl

theorem MatchesRow.subReg (x : RegIdx) (y : RegIdx) : MatchesRow.Statement (.subReg x y) :=
  (mask_layoutXYN _ x y _).trans rfl

theorem MatchesRow.shr (x : RegIdx) (y : RegIdx) : MatchesRow.Statement (.shr x y) :=
  (mask_layoutXYN _ x y _).trans rfl

theorem MatchesRow.subn (x : RegIdx) (y : RegIdx) : MatchesRow.Statement (.subn x y) :=
  (mask_layoutXYN _ x y _).trans rfl

theorem MatchesRow.shl (x : RegIdx) (y : RegIdx) : MatchesRow.Statement (.shl x y) :=
  (mask_layoutXYN _ x y _).trans rfl

theorem MatchesRow.sneReg (x : RegIdx) (y : RegIdx) : MatchesRow.Statement (.sneReg x y) :=
  (mask_layoutXYN _ x y _).trans rfl

theorem MatchesRow.ldI (nnn : Addr) : MatchesRow.Statement (.ldI nnn) :=
  (mask_layoutA _ nnn).trans rfl

theorem MatchesRow.jpV0 (nnn : Addr) : MatchesRow.Statement (.jpV0 nnn) :=
  (mask_layoutA _ nnn).trans rfl

theorem MatchesRow.rnd (x : RegIdx) (nn : Byte) : MatchesRow.Statement (.rnd x nn) :=
  (mask_layoutXB _ x nn).trans rfl

theorem MatchesRow.drw (x : RegIdx) (y : RegIdx) (n : Nibble) : MatchesRow.Statement (.drw x y n) :=
  (mask_layoutXYN_op _ x y n).trans rfl

theorem MatchesRow.skp (x : RegIdx) : MatchesRow.Statement (.skp x) :=
  (mask_layoutXF _ x _).trans rfl

theorem MatchesRow.sknp (x : RegIdx) : MatchesRow.Statement (.sknp x) :=
  (mask_layoutXF _ x _).trans rfl

theorem MatchesRow.ldVxDT (x : RegIdx) : MatchesRow.Statement (.ldVxDT x) :=
  (mask_layoutXF _ x _).trans rfl

theorem MatchesRow.ldVxK (x : RegIdx) : MatchesRow.Statement (.ldVxK x) :=
  (mask_layoutXF _ x _).trans rfl

theorem MatchesRow.ldDTVx (x : RegIdx) : MatchesRow.Statement (.ldDTVx x) :=
  (mask_layoutXF _ x _).trans rfl

theorem MatchesRow.ldSTVx (x : RegIdx) : MatchesRow.Statement (.ldSTVx x) :=
  (mask_layoutXF _ x _).trans rfl

theorem MatchesRow.addI (x : RegIdx) : MatchesRow.Statement (.addI x) :=
  (mask_layoutXF _ x _).trans rfl

theorem MatchesRow.ldF (x : RegIdx) : MatchesRow.Statement (.ldF x) :=
  (mask_layoutXF _ x _).trans rfl

theorem MatchesRow.ldB (x : RegIdx) : MatchesRow.Statement (.ldB x) :=
  (mask_layoutXF _ x _).trans rfl

theorem MatchesRow.storeRegs (x : RegIdx) : MatchesRow.Statement (.storeRegs x) :=
  (mask_layoutXF _ x _).trans rfl

theorem MatchesRow.loadRegs (x : RegIdx) : MatchesRow.Statement (.loadRegs x) :=
  (mask_layoutXF _ x _).trans rfl

end Sys2Proof.Laws
end

