-- ==== Sys2Proof/Tests/Slice0.lean ====
section
/-! SUPPORT. Tests of one step each, with expected results from spec/95_test_vectors.md (the vector's id in each
comment) or written out from the encoding tables; the WellFormed smoke test; and for each statement with hypotheses a
witness that meets them. -/

namespace Sys2Proof.Tests

open Machine

/-! Helpers. -/

/-- The reset machine with the engine alone ahead in the schedule, so that a step can be computed. -/
def alone : State := { State.reset with supply := .engineAlone }

/-- The same machine with bytes placed at 0x200. -/
def loaded (p : List Byte) : State := alone.placeBytes 0x200 p

/-- The next state, where there is one. -/
def ans (a : Answer) : Option State :=
  match a with
  | .next s => some s
  | .fault _ => none
  | .refused _ => none

/-- One field of the state after one step. -/
def after {α : Type} (s : State) (f : State → α) : Option α := (ans (step s)).map f

/-- V0, V1, V2 and VF set. -/
def regs (s : State) (v0 v1 v2 vF : Byte) : State :=
  (((s.writeV 0 v0).writeV 1 v1).writeV 2 v2).writeV 0xF vF

/-! WellFormed: an ill-formed term for each check (30_encoding.md R90). -/

theorem test_wellFormed_refuses_sys_0E0 : (Instr.sys 0x0E0).wellFormed = false := by decide
theorem test_wellFormed_refuses_sys_0EE : (Instr.sys 0x0EE).wellFormed = false := by decide
theorem test_wellFormed_accepts_sys_1E0 : (Instr.sys 0x1E0).wellFormed = true := by decide

/-! Decoding: a word of every row, written out from 30_encoding.md R87, R91. -/

theorem test_decode_layouts_O_A :
    decode 0x00E0 = .instr .cls ∧ decode 0x00EE = .instr .ret ∧ decode 0x0ABC = .instr (.sys 0xABC)
      ∧ decode 0x1234 = .instr (.jp 0x234) ∧ decode 0x2ABC = .instr (.call 0xABC)
      ∧ decode 0xA2F0 = .instr (.ldI 0x2F0) ∧ decode 0xB300 = .instr (.jpV0 0x300) := by decide

theorem test_decode_layout_XB :
    decode 0x3342 = .instr (.seImm 3 0x42) ∧ decode 0x4342 = .instr (.sneImm 3 0x42)
      ∧ decode 0x6A2F = .instr (.ldImm 0xA 0x2F) ∧ decode 0x7002 = .instr (.addImm 0 2)
      ∧ decode 0xC30F = .instr (.rnd 3 0x0F) := by decide

theorem test_decode_layout_XYN :
    decode 0x5120 = .instr (.seReg 1 2) ∧ decode 0x9120 = .instr (.sneReg 1 2)
      ∧ decode 0x8120 = .instr (.ldReg 1 2) ∧ decode 0x8121 = .instr (.orReg 1 2)
      ∧ decode 0x8122 = .instr (.andReg 1 2) ∧ decode 0x8123 = .instr (.xorReg 1 2)
      ∧ decode 0x8124 = .instr (.addReg 1 2) ∧ decode 0x8125 = .instr (.subReg 1 2)
      ∧ decode 0x8126 = .instr (.shr 1 2) ∧ decode 0x8127 = .instr (.subn 1 2)
      ∧ decode 0x812E = .instr (.shl 1 2) ∧ decode 0xD125 = .instr (.drw 1 2 5) := by decide

theorem test_decode_layout_XF :
    decode 0xE19E = .instr (.skp 1) ∧ decode 0xE1A1 = .instr (.sknp 1) ∧ decode 0xF307 = .instr (.ldVxDT 3)
      ∧ decode 0xF50A = .instr (.ldVxK 5) ∧ decode 0xF315 = .instr (.ldDTVx 3)
      ∧ decode 0xF318 = .instr (.ldSTVx 3) ∧ decode 0xF21E = .instr (.addI 2) ∧ decode 0xF029 = .instr (.ldF 0)
      ∧ decode 0xFA33 = .instr (.ldB 0xA) ∧ decode 0xF255 = .instr (.storeRegs 2)
      ∧ decode 0xF265 = .instr (.loadRegs 2) := by decide

/-- E1, E3, E5, E6: exact match of CLS and RET. -/
theorem test_decode_machine_code_calls :
    decode 0x0000 = .instr (.sys 0x000) ∧ decode 0x00E1 = .instr (.sys 0x0E1) ∧ decode 0x01E0 = .instr (.sys 0x1E0)
      ∧ decode 0x0FEE = .instr (.sys 0xFEE) := by decide

/-- E7, E9, E10, E12, E13, E15, E16, E17, E20. -/
theorem test_decode_unsupported :
    decode 0x5121 = .unsupported 0x5121 ∧ decode 0x8128 = .unsupported 0x8128 ∧ decode 0x812F = .unsupported 0x812F
      ∧ decode 0x9121 = .unsupported 0x9121 ∧ decode 0xE19F = .unsupported 0xE19F
      ∧ decode 0xF100 = .unsupported 0xF100 ∧ decode 0xF1FF = .unsupported 0xF1FF
      ∧ decode 0xF125 = .unsupported 0xF125 ∧ decode 0xFFFF = .unsupported 0xFFFF := by decide

/-- 20_memory.md R67 and 30_encoding.md R85: two bytes, high byte first, the rest handed back; one byte is too few. -/
theorem test_decodeBytes :
    decodeBytes [0x6A, 0x2F, 0x12] = .instr (.ldImm 0xA 0x2F) [0x12] ∧ decodeBytes [0x51, 0x21] = .unsupported 0x5121
      ∧ decodeBytes [0x6A] = .truncated ∧ decodeBytes [] = .truncated := by decide

theorem test_encode_call : encode (.call 0xABC) = 0x2ABC := by decide
theorem test_encode_drw : encode (.drw 1 2 5) = 0xD125 := by decide

/-! Fetch and cycle. -/

/-- T1. -/
theorem test_fetch_big_endian : after (loaded [0x6A, 0x2F]) (fun t => (t.readV 0xA, t.pc)) = some (0x2F, 0x202) := by
  decide

/-- T4, F1. -/
theorem test_fetch_past_end :
    after { alone with pc := 0xFFF } (fun t => (t.status, t.pc))
      = some (.halted ⟨.fetchOutOfBounds, none, 0xFFF, none⟩, 0xFFF) := by decide

/-- T8, F2: empty memory is a machine-code call; pc is advanced in the halted state. -/
theorem test_empty_program :
    after alone (fun t => (t.status, t.pc))
      = some (.halted ⟨.machineCodeCall, some 0x0000, 0x200, none⟩, 0x202) := by decide

/-- E7. -/
theorem test_unsupported_faults :
    after (loaded [0x51, 0x21]) (fun t => t.status)
      = some (.halted ⟨.unsupportedOpcode, some 0x5121, 0x200, none⟩) := by decide

/-- T2: an odd pc fetches like an even one. -/
theorem test_withFetchWord :
    after (State.withFetchWord { State.reset with pc := 0x301 } 16 0x6107) (fun t => (t.readV 1, t.pc))
      = some (7, 0x303) := by decide

/-- K13, K14: ticks move DT and ST also after a halt. -/
theorem test_ticks_after_halt :
    after { State.reset with status := .halted ⟨.stackUnderflow, some 0xEE, 0x200, none⟩, dt := 4, agenda := [.tickDT] }
      (fun t => (t.dt, t.agenda)) = some (3, []) := by decide

/-- R175: the halted engine, with no move left for any other agent. -/
theorem test_halted_stops :
    ans (step { alone with status := .halted ⟨.stackUnderflow, some 0xEE, 0x200, none⟩ }) = none := by decide

/-! Display. -/

/-- D13. -/
theorem test_cls :
    after { loaded [0x00, 0xE0] with fb := clearedFB.set 7 0x1234000000000000 }
      (fun t => (t.fb[7], t.snapshots.length, t.readV 0xF)) = some (0, 1, 0) := by decide

/-- D1. -/
theorem test_drw_glyph :
    after { loaded [0xD0, 0x15] with i := 0x050 }
      (fun t => (t.fb[0], t.fb[1], t.fb[4], t.fb[5], t.readV 0xF))
      = some (0xF000000000000000, 0x9000000000000000, 0xF000000000000000, 0, 0) := by decide

/-- D6: rows past 31 are dropped; a collision on row 31. -/
theorem test_drw_clips_and_collides :
    after { (loaded [0xD0, 0x15]).writeV 1 31 with i := 0x050, fb := clearedFB.set 31 0x8000000000000000 }
      (fun t => (t.fb[31], t.fb[0], t.readV 0xF)) = some (0x7000000000000000, 0, 1) := by decide

/-! Control flow. -/

/-- C17. -/
theorem test_sys :
    after (loaded [0x0A, 0xBC]) (fun t => t.status)
      = some (.halted ⟨.machineCodeCall, some 0x0ABC, 0x200, none⟩) := by decide

/-- C7. -/
theorem test_ret :
    after { loaded [0x00, 0xEE] with sp := 2, stack := (Vector.replicate 16 0).set 1 0x456 }
      (fun t => (t.pc, t.sp.val)) = some (0x456, 1) := by decide

/-- C8. -/
theorem test_ret_underflow :
    after (loaded [0x00, 0xEE]) (fun t => t.status)
      = some (.halted ⟨.stackUnderflow, some 0x00EE, 0x200, none⟩) := by decide

/-- C1. -/
theorem test_jp : after (loaded [0x1A, 0xBC]) (fun t => t.pc) = some 0xABC := by decide

/-- C5. -/
theorem test_call :
    after { loaded [0x2A, 0xBC] with sp := 15 } (fun t => (t.stack[15], t.sp.val, t.pc)) = some (0x202, 16, 0xABC) := by
  decide

/-- C6. -/
theorem test_call_overflow :
    after { loaded [0x2A, 0xBC] with sp := 16 } (fun t => (t.status, t.sp.val))
      = some (.halted ⟨.stackOverflow, some 0x2ABC, 0x200, none⟩, 16) := by decide

/-- C9. -/
theorem test_seImm :
    after ((loaded [0x33, 0x42]).writeV 3 0x42) (fun t => t.pc) = some 0x204
      ∧ after ((loaded [0x33, 0x43]).writeV 3 0x42) (fun t => t.pc) = some 0x202 := by decide

/-- C10. -/
theorem test_sneImm :
    after ((loaded [0x43, 0x42]).writeV 3 0x42) (fun t => t.pc) = some 0x202
      ∧ after ((loaded [0x43, 0x43]).writeV 3 0x42) (fun t => t.pc) = some 0x204 := by decide

/-- C11, C12. -/
theorem test_seReg :
    after (regs (loaded [0x51, 0x20]) 0 0x10 0x10 0) (fun t => t.pc) = some 0x204
      ∧ after (regs (loaded [0x51, 0x20]) 0 0x10 0x11 0) (fun t => t.pc) = some 0x202 := by decide

/-- C11, C12. -/
theorem test_sneReg :
    after (regs (loaded [0x91, 0x20]) 0 0x10 0x10 0) (fun t => t.pc) = some 0x202
      ∧ after (regs (loaded [0x91, 0x20]) 0 0x10 0x11 0) (fun t => t.pc) = some 0x204 := by decide

/-- C15. -/
theorem test_jpV0_top : after ((loaded [0xBF, 0xFF]).writeV 0 0xFF) (fun t => t.pc) = some 0x10FE := by decide

/-- C16, both settings of JUMP_BASE. -/
theorem test_jpV0_configured :
    after (regs (loaded [0xB2, 0xF0]) 0x10 0 0x04 0) (fun t => t.pc) = some 0x300
      ∧ after { regs (loaded [0xB2, 0xF0]) 0x10 0 0x04 0 with cfg := { Config.default with jumpBase := .vx } }
          (fun t => t.pc) = some 0x2F4 := by decide

/-! Registers and arithmetic. -/

/-- A2. -/
theorem test_ldImm_vf : after (loaded [0x6F, 0x07]) (fun t => t.readV 0xF) = some 0x07 := by decide

/-- S5. -/
theorem test_addImm_wraps :
    after (regs (loaded [0x70, 0x02]) 0xFF 0 0 0x5A) (fun t => (t.readV 0, t.readV 0xF)) = some (0x01, 0x5A) := by decide

/-- A5. -/
theorem test_ldReg :
    after (regs (loaded [0x81, 0x20]) 0 0x0F 0xF0 7) (fun t => (t.readV 1, t.readV 0xF)) = some (0xF0, 7) := by decide
/-- A5. -/
theorem test_orReg :
    after (regs (loaded [0x81, 0x21]) 0 0x0F 0xF0 7) (fun t => (t.readV 1, t.readV 0xF)) = some (0xFF, 7) := by decide
/-- A5. -/
theorem test_andReg :
    after (regs (loaded [0x81, 0x22]) 0 0x0F 0xF0 7) (fun t => (t.readV 1, t.readV 0xF)) = some (0x00, 7) := by decide
/-- 42_alu.md R136's example. -/
theorem test_xorReg :
    after (regs (loaded [0x81, 0x23]) 0 0x3C 0x0F 7) (fun t => (t.readV 1, t.readV 0xF)) = some (0x33, 7) := by decide

/-- A6. -/
theorem test_addReg_256 :
    after (regs (loaded [0x81, 0x24]) 0 0x80 0x80 0) (fun t => (t.readV 1, t.readV 0xF)) = some (0x00, 1) := by decide

/-- A8: the flag is written after the result. -/
theorem test_addReg_vf : after (regs (loaded [0x8F, 0x14]) 0 0x90 0 0x80) (fun t => t.readV 0xF) = some 1 := by decide

/-- A10, A11. -/
theorem test_subReg :
    after (regs (loaded [0x81, 0x25]) 0 0 1 1) (fun t => (t.readV 1, t.readV 0xF)) = some (0xFF, 0)
      ∧ after (regs (loaded [0x81, 0x25]) 0 0 0 0) (fun t => (t.readV 1, t.readV 0xF)) = some (0x00, 1) := by decide

/-- A14, both settings of SHIFT_SOURCE. -/
theorem test_shr :
    after (regs (loaded [0x81, 0x26]) 0 0xAA 0x03 0) (fun t => (t.readV 1, t.readV 0xF, t.readV 2)) = some (1, 1, 3)
      ∧ after { regs (loaded [0x81, 0x26]) 0 0xAA 0x03 1 with cfg := { Config.default with shiftSource := .vx } }
          (fun t => (t.readV 1, t.readV 0xF)) = some (0x55, 0) := by decide

/-- S8 (d), (e). -/
theorem test_subn :
    after (regs (loaded [0x81, 0x27]) 0 5 7 0) (fun t => (t.readV 1, t.readV 0xF)) = some (0x02, 1)
      ∧ after (regs (loaded [0x81, 0x27]) 0 7 5 1) (fun t => (t.readV 1, t.readV 0xF)) = some (0xFE, 0) := by decide

/-- A15, both settings of SHIFT_SOURCE. -/
theorem test_shl :
    after (regs (loaded [0x81, 0x2E]) 0 0x01 0x80 0) (fun t => (t.readV 1, t.readV 0xF)) = some (0, 1)
      ∧ after { regs (loaded [0x81, 0x2E]) 0 0x01 0x80 1 with cfg := { Config.default with shiftSource := .vx } }
          (fun t => (t.readV 1, t.readV 0xF)) = some (2, 0) := by decide

/-- A20 where the value is fixed whatever the draw: nn = 0. -/
theorem test_rnd_zero_mask : after ((loaded [0xC3, 0x00]).writeV 3 9) (fun t => t.draws) = some 1 := by decide

/-! Index register and memory. -/

/-- M1. -/
theorem test_ldI : after (loaded [0xAF, 0xFF]) (fun t => t.i) = some 0x0FFF := by decide

/-- M4. -/
theorem test_addI : after { (loaded [0xF0, 0x1E]).writeV 0 0xFF with i := 0xFF00 } (fun t => t.i) = some 0xFFFF := by
  decide

/-- M3. -/
theorem test_addI_overflow :
    after { (loaded [0xF0, 0x1E]).writeV 0 1 with i := 0xFFFF } (fun t => (t.status, t.i))
      = some (.halted ⟨.indexOverflow, some 0xF01E, 0x200, none⟩, 0xFFFF) := by decide

/-- M5, M6. -/
theorem test_ldF :
    after ((loaded [0xF0, 0x29]).writeV 0 0x0A) (fun t => t.i) = some 0x082
      ∧ after ((loaded [0xF0, 0x29]).writeV 0 0x1F) (fun t => t.i) = some 0x09B := by decide

/-- M11. -/
theorem test_ldB :
    after { (loaded [0xF0, 0x33]).writeV 0 123 with i := 0xFFD }
      (fun t => (t.byteAt 0xFFD, t.byteAt 0xFFE, t.byteAt 0xFFF)) = some (1, 2, 3) := by decide

/-- F4. -/
theorem test_ldB_out_of_bounds :
    after { loaded [0xF0, 0x33] with i := 0xFFF } (fun t => t.status)
      = some (.halted ⟨.memoryOutOfBounds, some 0xF033, 0x200, some 0x1000⟩) := by decide

/-- M18: the glyph table is writable. -/
theorem test_storeRegs_glyph_table :
    after { (loaded [0xF0, 0x55]).writeV 0 0xAA with i := 0x050 } (fun t => (t.byteAt 0x50, t.byteAt 0x51, t.i))
      = some (0xAA, 0x90, 0x051) := by decide

/-- M15: the lowest offending address is I itself. -/
theorem test_storeRegs_out_of_bounds :
    after { loaded [0xF0, 0x55] with i := 0x1005 } (fun t => (t.status, t.i))
      = some (.halted ⟨.memoryOutOfBounds, some 0xF055, 0x200, some 0x1005⟩, 0x1005) := by decide

/-- M17, both settings of MEMORY_INCREMENTS_I. -/
theorem test_loadRegs :
    after { loaded [0xF4, 0x65] with i := 0x050 } (fun t => (t.readV 0, t.readV 3, t.readV 4, t.readV 5, t.i))
      = some (0xF0, 0x90, 0xF0, 0, 0x055)
      ∧ after { loaded [0xF4, 0x65] with i := 0x050, cfg := { Config.default with memoryIncrementsI := false } }
          (fun t => t.i) = some 0x050 := by decide

/-! Keypad and timers. -/

/-- S14, S15. -/
theorem test_skp :
    after { (loaded [0xE0, 0x9E]).writeV 0 5 with keyq := [.pressed 5] } (fun t => (t.keys, t.keyq, t.pc))
      = some (0x0020, [], 0x204)
      ∧ after ((loaded [0xE0, 0x9E]).writeV 0 5) (fun t => t.pc) = some 0x202 := by decide

/-- K1, K2. -/
theorem test_sknp :
    after { (loaded [0xE0, 0xA1]).writeV 0 5 with keys := 0x0020 } (fun t => t.pc) = some 0x202
      ∧ after ((loaded [0xE0, 0xA1]).writeV 0 0x15) (fun t => t.pc) = some 0x204 := by decide

/-- K5: the lowest held key. -/
theorem test_ldVxK :
    after { loaded [0xF3, 0x0A] with keyq := [.pressed 2, .pressed 9] } (fun t => (t.keys, t.readV 3, t.pc))
      = some (0x0204, 2, 0x202) := by decide

/-- K6: the retry. -/
theorem test_ldVxK_waits : after (loaded [0xF3, 0x0A]) (fun t => t.pc) = some 0x200 := by decide

/-- K3: pressed and released within one drain. -/
theorem test_drain_press_release :
    after { (loaded [0xE0, 0x9E]).writeV 0 5 with keyq := [.pressed 5, .released 5] } (fun t => (t.keys, t.pc))
      = some (0, 0x202) := by decide

/-- K8. -/
theorem test_ldVxDT : after { loaded [0xF5, 0x07] with dt := 0x20 } (fun t => t.readV 5) = some 0x20 := by decide
/-- K9. -/
theorem test_ldDTVx : after { loaded [0xF5, 0x15] with dt := 9 } (fun t => t.dt) = some 0 := by decide
/-- K10, K11. -/
theorem test_ldSTVx :
    after ((loaded [0xF5, 0x18]).writeV 5 1) (fun t => (t.st, t.tone)) = some (1, true)
      ∧ after { loaded [0xF5, 0x18] with st := 5 } (fun t => (t.st, t.tone)) = some (0, false) := by decide

/-! Construction. -/

/-- S2. -/
theorem test_init_too_big : init Config.default [] (List.replicate 3585 0) = .programTooBig 3585 3584 := by
  have h : (List.replicate 3585 (0 : Byte)).length = 3585 := List.length_replicate
  unfold init
  rw [h]
  rfl

/-- The canonical form: writing the byte an unlisted address reads as removes the entry. -/
theorem test_memory_canonical :
    (State.reset.memWrite 0x300 7).mem = [(0x300, 7)] ∧ ((State.reset.memWrite 0x300 7).memWrite 0x300 0).mem = []
      ∧ (State.reset.memWrite 0x50 0xF0).mem = [] := by decide

/-! Witnesses: for each statement with hypotheses, a state and operands that meet them all; one per clause, at a
boundary of its range. -/

/-- A state whose next cycle runs `ws`, with one register set. -/
theorem turn_loaded (p : List Byte) (f : State → State) (hr : (f (loaded p)).status = .running)
    (ha : (f (loaded p)).agenda = []) (hs : (f (loaded p)).supply = .engineAlone) : EnginesTurn (f (loaded p)) [] :=
  ⟨hr, .inr ⟨(congrArg State.agenda (State.refill_engineAlone hs)).trans ha, rfl⟩⟩

theorem witness_DecodeOfEncode : (Instr.sys 0xFFF).wellFormed = true ∧ (Instr.drw 0xF 0xF 0xF).wellFormed = true := by
  decide

theorem witness_EncodeOfDecode : decode 0xF165 = .instr (.loadRegs 1) := by decide

theorem witness_IllegalWords : decode 0x5121 = .unsupported 0x5121 := by decide

/-- n = 0 with I far out of memory (D10), the last fitting sprite (D9), the first that leaves memory (D8). -/
theorem witness_DrwDrawsSpriteRows :
    (((0 : Nibble) = 0 ∨ (0x2000 : Word).toNat + (0 : Nibble).toNat - 1 ≤ 0xFFF)
      ∧ (0xFFC : Word).toNat + (4 : Nibble).toNat - 1 ≤ 0xFFF)
    ∧ ((4 : Nibble) ≠ 0 ∧ 0xFFF < (0xFFD : Word).toNat + (4 : Nibble).toNat - 1) := by decide

/-- A colliding and a collision-free row, for the two flag clauses. -/
theorem witness_DrwDrawsSpriteRows_flag :
    ((clearedFB.set 31 0x8000000000000000)[31] &&& spriteMask (State.reset.byteAt 0x50) 0 ≠ 0)
      ∧ clearedFB[31] &&& spriteMask (State.reset.byteAt 0x50) 0 = 0 := by decide

theorem witness_DrwClipsAtEdges : (4 : Nibble) = 0 ∨ (0xFFC : Word).toNat + (4 : Nibble).toNat - 1 ≤ 0xFFF := by decide

/-- The same position in both draws: coordinates in V0 and V1. -/
theorem witness_DrawingTwiceRestores :
    ((5 : Nibble) = 0 ∨ (0x50 : Word).toNat + (5 : Nibble).toNat - 1 ≤ 0xFFF)
      ∧ (ans (exec (.drw 0 1 5) { State.reset with i := 0x50 })).map (fun t => (t.readV 0, t.readV 1)) = some (0, 0) := by
  decide

theorem witness_SysRaisesMachineCodeCall : (0x0FFF : Word) &&& 0xF000 = 0x0000 ∧ (0x0FFF : Word) ≠ 0x00E0
    ∧ (0x0FFF : Word) ≠ 0x00EE := by decide

theorem witness_RetPopsReturnAddress :
    0 < ({ State.reset with sp := 1 } : State).sp.val ∧ State.reset.sp.val = 0 := by decide

theorem witness_CallPushesReturnAddress :
    ({ State.reset with sp := 15 } : State).sp.val < 16 ∧ ({ State.reset with sp := 16 } : State).sp.val = 16 := by decide

theorem witness_CallThenRetRestores : ({ State.reset with sp := 15 } : State).sp.val < 16 := by decide

/-- A word of every row matches its mask, so no `DecodesRow` is empty: one of each mask. -/
theorem witness_DecodesRow :
    (0x00E0 : Word) &&& 0xFFFF = 0x00E0 ∧ (0xDFFF : Word) &&& 0xF000 = 0xD000 ∧ (0x8FFE : Word) &&& 0xF00F = 0x800E
      ∧ (0xFF65 : Word) &&& 0xF0FF = 0xF065 := by decide

theorem witness_SkipPassesOverTwoBytes :
    EnginesTurn (loaded [0x30, 0x00]) [] ∧ (loaded [0x30, 0x00]).pc.toNat + 1 ≤ 0xFFF
      ∧ decode (loaded [0x30, 0x00]).fetchWord = .instr (.seImm 0 0)
      ∧ skipCondition (atExecute (loaded [0x30, 0x00]) []) (.seImm 0 0)
          = some ((atExecute (loaded [0x30, 0x00]) []).readV 0 = 0)
      ∧ (atExecute (loaded [0x30, 0x00]) []).readV 0 = 0 :=
  ⟨turn_loaded _ id rfl rfl rfl, by decide, by decide, rfl, by decide⟩

/-- The other clause: the condition fails. -/
theorem witness_SkipPassesOverTwoBytes_not :
    decode (loaded [0x30, 0x01]).fetchWord = .instr (.seImm 0 1)
      ∧ ¬(atExecute (loaded [0x30, 0x01]) []).readV 0 = 1 := by decide

theorem witness_JpV0AddsOffset :
    State.reset.cfg.jumpBase = .v0
      ∧ ({ State.reset with cfg := { Config.default with jumpBase := .vx } } : State).cfg.jumpBase = .vx := by decide

theorem witness_x_is_VF_or_not : (0xE : RegIdx) ≠ 0xF := by decide

theorem witness_ShiftsMoveBitToVF :
    (State.reset.cfg.shiftSource = .vy ∧ (2 : RegIdx) = 2)
      ∧ (({ State.reset with cfg := { Config.default with shiftSource := .vx } } : State).cfg.shiftSource = .vx
          ∧ (1 : RegIdx) = 1) := by decide

/-- The draw in range, and an instruction that is no draw. -/
theorem witness_FlagWritersOverwriteVF :
    (1 : RegIdx) ≠ 0xF ∧ (2 : RegIdx) ≠ 0xF
      ∧ Instr.drw 1 2 5 ∈ [Instr.addReg 1 2, .subReg 1 2, .shr 1 2, .subn 1 2, .shl 1 2, .drw 1 2 5]
      ∧ (∀ z w m, Instr.drw 1 2 5 = .drw z w m → m = 0 ∨ State.reset.i.toNat + m.toNat - 1 ≤ 0xFFF) := by
  refine ⟨by decide, by decide, by decide, fun z w m h => ?_⟩
  cases h; decide

theorem witness_AddIAddsOrOverflows :
    (0xFF00 : Word).toNat + (0xFF : Byte).toNat ≤ 0xFFFF ∧ 0xFFFF < (0xFF01 : Word).toNat + (0xFF : Byte).toNat := by decide

theorem witness_LdBStoresDecimalDigits : (0xFFD : Word).toNat + 2 ≤ 0xFFF ∧ 0xFFF < (0xFFE : Word).toNat + 2 := by decide

/-- For both block transfers: M13, M14. -/
theorem witness_BlockTransfers :
    (0xFF0 : Word).toNat + (0xF : RegIdx).toNat ≤ 0xFFF ∧ 0xFFF < (0xFF1 : Word).toNat + (0xF : RegIdx).toNat := by decide

theorem witness_StoreThenLoadRestoresRegs :
    ({ State.reset with i := 0xFF0 } : State).i.toNat + (0xF : RegIdx).toNat ≤ 0xFFF := by decide

theorem witness_EqualReadsAreEqualMemories :
    Memory.wf defaultFont [(0x50, 0xAA), (0xFFF, 1)] ∧ Memory.wf defaultFont (Memory.write defaultFont [(0x50, 0xAA)] 0xFFF 1)
      ∧ ∀ a, a ≤ 0xFFF → Memory.read defaultFont [(0x50, 0xAA), (0xFFF, 1)] a
          = Memory.read defaultFont (Memory.write defaultFont [(0x50, 0xAA)] 0xFFF 1) a :=
  ⟨by decide, by decide, fun _ _ => rfl⟩

/-- Key 15 held, and key 16, which no bit names. -/
theorem witness_KeySkipsTestHeldKey :
    ((0xF : Byte).toNat < 16 ∧ (0x8000 : BitVec 16).getLsbD (0xF : Byte).toNat = true)
      ∧ ¬((0x10 : Byte).toNat < 16 ∧ (0xFFFF : BitVec 16).getLsbD (0x10 : Byte).toNat = true) := by decide

theorem witness_KeyWaitTakesLowestKey :
    ({ State.reset with keys := 0x8000 } : State).keys ≠ 0 ∧ State.reset.keys = 0 := by decide

theorem witness_StepRunsDecodedInstruction :
    EnginesTurn (loaded [0x6A, 0x2F]) [] ∧ (loaded [0x6A, 0x2F]).pc.toNat + 1 ≤ 0xFFF
      ∧ decode ((loaded [0x6A, 0x2F]).byteAt (loaded [0x6A, 0x2F]).pc.toNat
          ++ (loaded [0x6A, 0x2F]).byteAt ((loaded [0x6A, 0x2F]).pc.toNat + 1)) = .instr (.ldImm 0xA 0x2F)
      ∧ ∃ t, exec (.ldImm 0xA 0x2F) (atExecute (loaded [0x6A, 0x2F]) []) = .next t :=
  ⟨turn_loaded _ id rfl rfl rfl, by decide, by decide, _, rfl⟩

/-- The last word of memory can be fetched (T3), the next pc cannot (T4). -/
theorem witness_FetchPastEndFaults :
    EnginesTurn { State.reset with pc := 0xFFF, agenda := [.engine, .tickDT] } [.tickDT]
      ∧ 0xFFF < (0xFFF : Word).toNat + 1 ∧ (0xFFE : Word).toNat + 1 ≤ 0xFFF :=
  ⟨⟨rfl, .inl rfl⟩, by decide, by decide⟩

theorem witness_UnsupportedWordFaults :
    EnginesTurn (loaded [0x51, 0x21]) [] ∧ (loaded [0x51, 0x21]).pc.toNat + 1 ≤ 0xFFF
      ∧ decode ((loaded [0x51, 0x21]).byteAt (loaded [0x51, 0x21]).pc.toNat
          ++ (loaded [0x51, 0x21]).byteAt ((loaded [0x51, 0x21]).pc.toNat + 1)) = .unsupported 0x5121 :=
  ⟨turn_loaded _ id rfl rfl rfl, by decide, by decide⟩

theorem witness_OtherAgentsMove :
    ({ State.reset with agenda := [.tickDT] } : State).refill.agenda = .tickDT :: []
      ∧ ({ State.reset with agenda := [.tickST, .engine] } : State).refill.agenda = .tickST :: [.engine]
      ∧ ({ State.reset with agenda := [.key (.pressed 0xF)] } : State).refill.agenda = .key (.pressed 0xF) :: [] := by
  decide

/-- A halted state that a move changes, and one with no move left for any other agent. -/
theorem witness_HaltedEngineNeverRuns :
    (∃ t, step { State.reset with status := .halted ⟨.stackUnderflow, some 0xEE, 0x200, none⟩, agenda := [.tickDT] }
        = .next t)
      ∧ ({ alone with status := .halted ⟨.stackUnderflow, some 0xEE, 0x200, none⟩ } : State).agenda = []
      ∧ ({ alone with status := .halted ⟨.stackUnderflow, some 0xEE, 0x200, none⟩ } : State).supply = .engineAlone :=
  ⟨⟨_, rfl⟩, rfl, rfl⟩

/-- For the two statements about faults: RET on an empty stack at 0x200. -/
theorem witness_FaultStatements :
    EnginesTurn (loaded [0x00, 0xEE]) []
      ∧ ∃ t, step (loaded [0x00, 0xEE]) = .next t
          ∧ t.status = .halted ⟨.stackUnderflow, some 0x00EE, 0x200, none⟩ :=
  ⟨turn_loaded _ id rfl rfl rfl, _, rfl, by decide⟩

/-- The clause of a fault at the fetch. -/
theorem witness_FaultStatements_fetch :
    ∃ t, step { alone with pc := 0xFFF } = .next t
      ∧ t.status = .halted ⟨.fetchOutOfBounds, none, 0xFFF, none⟩ :=
  ⟨_, rfl, by decide⟩

/-- A state at the boundary of the pc and return-address bounds: pc 0x10FE, a held return address 0x1000. -/
def boundState : State :=
  { alone with pc := 0x10FE, sp := 1, stack := (Vector.replicate 16 0).set 0 0x1000 }

theorem witness_Inv : Inv boundState where
  memory := Memory.wf_nil
  pcBound := by decide
  returns := by decide
  record := fun r h => by cases h

theorem witness_StepKeepsInv : Inv boundState ∧ ∃ t, step boundState = .next t := ⟨witness_Inv, _, rfl⟩

theorem witness_ConstructedMachineMeetsInv : ∃ t, init Config.default [.tickDT] [0x12, 0x00] = .machine t := ⟨_, rfl⟩

/-- Both lengths at their boundary: 3584 and 3585. -/
theorem witness_InitPlacesProgram :
    (List.replicate 3584 (0 : Byte)).length ≤ 3584 ∧ 3584 < (List.replicate 3585 (0 : Byte)).length := by
  rw [List.length_replicate, List.length_replicate]
  omega

theorem witness_PcMovesOnlyAsSpecified :
    EnginesTurn (loaded [0x12, 0x00]) [] ∧ (loaded [0x12, 0x00]).pc.toNat + 1 ≤ 0xFFF
      ∧ decode (loaded [0x12, 0x00]).fetchWord = .instr (.jp 0x200)
      ∧ ∃ t, step (loaded [0x12, 0x00]) = .next t ∧ t.status = .running :=
  ⟨turn_loaded _ id rfl rfl rfl, by decide, by decide, _, rfl, by decide⟩

/-- The last clause: the same state meets the invariant. -/
theorem witness_PcMovesOnlyAsSpecified_inv : Inv (loaded [0x12, 0x00]) where
  memory := by decide
  pcBound := by decide
  returns := by decide
  record := fun r h => by cases h

/-- For the statements about any answer of exec: a display instruction and another one, in a running state. -/
theorem witness_ExecAnswers :
    State.reset.status = .running ∧ (∃ t, exec .cls State.reset = .next t ∧ t.status = .running)
      ∧ ∃ t, exec (.ldImm 0 1) State.reset = .next t :=
  ⟨rfl, ⟨_, rfl, rfl⟩, _, rfl⟩

theorem witness_ConfigurationIsFixed : ∃ t, step (loaded [0x12, 0x00]) = .next t := ⟨_, rfl⟩

/-- A schedule of a tick, a key press and a cycle. -/
theorem witness_EveryInterleavingIsARun :
    ({ loaded [0x12, 0x00] with agenda := [.tickST, .key (.pressed 3), .engine] ++ [.tickDT] } : State).agenda
        = [.tickST, .key (.pressed 3), .engine] ++ [.tickDT]
      ∧ ∃ t, runMoves [.tickST, .key (.pressed 3), .engine]
          { loaded [0x12, 0x00] with agenda := [.tickST, .key (.pressed 3), .engine] ++ [.tickDT] } = .next t :=
  ⟨rfl, _, rfl⟩

/-- The refilling clause: the machine after reset. -/
theorem witness_EveryInterleavingIsARun_refill : State.reset.agenda = [] ∧ State.reset.supply = .free 0 := ⟨rfl, rfl⟩

/-- The states of the run from `s`, where every step answers. -/
def runFrom (s : State) : Nat → State
  | 0 => s
  | k + 1 =>
    match step (runFrom s k) with
    | .next t => t
    | .fault _ => runFrom s k
    | .refused _ => runFrom s k

/-- On the free schedule, with no termination on the agenda, the machine runs for ever. -/
theorem isRun_runFrom {s : State} {n : Nat} (hs : s.supply = .free n) (ha : .terminate ∉ s.agenda) :
    IsRun (runFrom s) := by
  have h : ∀ k, (∃ m, (runFrom s k).supply = .free m) ∧ .terminate ∉ (runFrom s k).agenda := by
    intro k
    induction k with
    | zero => exact ⟨⟨n, hs⟩, ha⟩
    | succ k ih =>
      obtain ⟨⟨m, hm⟩, hk⟩ := ih
      obtain ⟨t, ht, h⟩ := step_on_free_supply hm hk
      simp only [runFrom, ht]; exact h
  intro k
  obtain ⟨⟨m, hm⟩, hk⟩ := h k
  obtain ⟨t, ht, -⟩ := step_on_free_supply hm hk
  simp only [runFrom, ht]

/-- The first clause: the run from reset. -/
theorem witness_InfiniteRunsAreFair : IsRun (runFrom State.reset) ∧ ∃ n, (runFrom State.reset 0).supply = .free n :=
  ⟨isRun_runFrom rfl (by decide), 0, rfl⟩

/-- A halted engine with both timers at 9 and the free schedule ahead. -/
def haltedAt9 : State :=
  { State.reset with status := .halted ⟨.stackUnderflow, some 0xEE, 0x200, none⟩, dt := 9, st := 9 }

/-- No move raises a timer once the engine is halted. -/
theorem runMove_halted {m : AgentMove} {s t : State} {r : FaultRecord} (hs : s.status = .halted r)
    (h : runMove m s = .next t) :
    t.status = .halted r ∧ t.dt.toNat ≤ s.dt.toNat ∧ t.st.toNat ≤ s.st.toNat := by
  have hc : ∀ b : Byte, (countDown b).toNat ≤ b.toNat := by decide
  cases m with
  | engine => simp only [runMove, engineMove, hs] at h; cases h; exact ⟨hs, Nat.le_refl _, Nat.le_refl _⟩
  | tickDT => cases h; exact ⟨hs, hc _, Nat.le_refl _⟩
  | tickST => cases h; exact ⟨hs, Nat.le_refl _, hc _⟩
  | key e => cases h; exact ⟨hs, Nat.le_refl _, Nat.le_refl _⟩
  | terminate => cases h

/-- The two clauses on the timers: no step of that run raises one. -/
theorem witness_InfiniteRunsAreFair_timers :
    (∀ k, (runFrom haltedAt9 (k + 1)).dt.toNat ≤ (runFrom haltedAt9 k).dt.toNat)
      ∧ ∀ k, (runFrom haltedAt9 (k + 1)).st.toNat ≤ (runFrom haltedAt9 k).st.toNat := by
  have hrun : IsRun (runFrom haltedAt9) := isRun_runFrom (n := 0) rfl (by decide)
  have hstep : ∀ {s t : State} {r}, s.status = .halted r → step s = .next t →
      t.status = .halted r ∧ t.dt.toNat ≤ s.dt.toNat ∧ t.st.toNat ≤ s.st.toNat := fun {s t r} hs h => by
    unfold step nextMove State.makeMove at h
    split at h
    · simp only [State.unscheduled, State.refill_status, hs] at h; cases h
    · simpa using runMove_halted (s := { s.refill with agenda := _ }) (by simpa using hs) h
  have h : ∀ k, (runFrom haltedAt9 k).status = .halted ⟨.stackUnderflow, some 0xEE, 0x200, none⟩ := by
    intro k
    induction k with
    | zero => rfl
    | succ k ih => exact (hstep ih (hrun k)).1
  exact ⟨fun k => (hstep (h k) (hrun k)).2.1, fun k => (hstep (h k) (hrun k)).2.2⟩

/-- The second clause: the three agents in turn. -/
theorem witness_InfiniteRunsAreFair_schedule : FairSchedule dueMoveOfRound := by
  have h : ∀ r, r < 3 → AgainAndAgain (fun k => dueMoveOfRound k = dueMoveOfRound r) := fun r hr k => by
    refine ⟨3 * k + r, by omega, ?_⟩
    have h3 : (3 * k + r) % 3 = r % 3 := by omega
    simp only [dueMoveOfRound, h3]
  exact ⟨fun k => by unfold dueMoveOfRound; split <;> simp, h 0 (by omega), h 1 (by omega), h 2 (by omega)⟩

theorem witness_FirstCycleRunsFirstWord :
    (∃ s, init Config.default (.engine :: []) (0x6A :: 0x2F :: []) = .machine s)
      ∧ decode ((0x6A : Byte) ++ (0x2F : Byte)) = .instr (.ldImm 0xA 0x2F) := ⟨⟨_, rfl⟩, by decide⟩

end Sys2Proof.Tests
end

section
/-! PROOFS. The key drain (10_state.md R36). -/

namespace Sys2Proof.Machine

/-- The mask of one key has that key's bit and no other. -/
theorem getLsbD_keyBit (j k : Key) : (keyBit j).getLsbD k.toNat = decide (j = k) := by
  revert j k; decide

/-- One event decides the key it names and leaves every other key as it was. -/
theorem getLsbD_applyKey (keys : BitVec 16) (e : KeyEvent) (k : Key) :
    (applyKey keys e).getLsbD k.toNat = if keyOf e = k then isPress e else keys.getLsbD k.toNat := by
  cases e with
  | pressed j =>
    rw [applyKey, BitVec.getLsbD_or, getLsbD_keyBit]
    by_cases h : j = k <;> simp [keyOf, isPress, h]
  | released j =>
    have hk : k.toNat < 16 := k.isLt
    rw [applyKey, BitVec.getLsbD_and, BitVec.getLsbD_not, getLsbD_keyBit]
    by_cases h : j = k <;> simp [keyOf, isPress, h, hk]

/-- After a queue of events each key stands as the latest event that names it says. -/
theorem getLsbD_foldl_applyKey (keys : BitVec 16) (q : List KeyEvent) (k : Key) :
    (q.foldl applyKey keys).getLsbD k.toNat =
      ((q.reverse.find? (fun e => keyOf e == k)).map isPress).getD (keys.getLsbD k.toNat) := by
  induction q using List.reverseRecOn with
  | nil => rfl
  | append_singleton q e ih =>
    rw [List.foldl_append, List.foldl_cons, List.foldl_nil, getLsbD_applyKey, ih, List.reverse_concat]
    by_cases h : keyOf e = k
    · rw [if_pos h, List.find?_cons_of_pos (by simpa using h)]; rfl
    · rw [if_neg h, List.find?_cons_of_neg (by simpa using h)]

end Sys2Proof.Machine

namespace Sys2Proof.Proofs

open Machine

/-- Settles O45: the queue is applied oldest first, so by induction from its newest event the last one to name a key
decides it. -/
theorem drainLeavesLatestEvent : Obligations.DrainLeavesLatestEvent := by
  intro s k
  refine ⟨rfl, rfl, ?_⟩
  rw [State.drainKeys_keys, getLsbD_foldl_applyKey]
  cases s.keyq.reverse.find? (fun e => keyOf e == k) <;> rfl

end Sys2Proof.Proofs
end

section
/-! PROOFS. What an instruction and a cycle do to the program counter (10_state.md R28). -/

namespace Sys2Proof.Machine

variable (s : State)

@[simp] theorem State.storeBlock_pc (base len : Nat) : (s.storeBlock base len).pc = s.pc := by
  rw [State.storeBlock_eq]

@[simp] theorem State.storeBlock_skip (base len : Nat) : (s.storeBlock base len).skip = s.skip := by
  rw [State.storeBlock_eq]

@[simp] theorem State.loadBlock_pc (base len : Nat) : (s.loadBlock base len).pc = s.pc := by
  rw [State.loadBlock_eq]

@[simp] theorem State.loadBlock_skip (base len : Nat) : (s.loadBlock base len).skip = s.skip := by
  rw [State.loadBlock_eq]

@[simp] theorem State.incrementI_pc (len : Nat) : (s.incrementI len).pc = s.pc := by
  rw [State.incrementI_eq]

@[simp] theorem State.incrementI_skip (len : Nat) : (s.incrementI len).skip = s.skip := by
  rw [State.incrementI_eq]

/-- No key is held exactly when the mask is empty. -/
theorem State.lowestHeld_eq_none : s.lowestHeld = none ↔ s.keys = 0 := by
  unfold State.lowestHeld
  rw [List.find?_eq_none]
  constructor
  · intro h
    refine BitVec.eq_of_getLsbD_eq fun k hk => ?_
    simpa using h k (List.mem_range.mpr hk)
  · intro h
    simp [h]

/-- The target of BNNN is the exact sum, which 16 bits hold (41_control_flow.md R119). -/
theorem toNat_jumpTarget (nnn : Addr) (b : Byte) :
    (nnn.setWidth 16 + b.setWidth 16 : Word).toNat = nnn.toNat + b.toNat := by
  have := nnn.isLt
  have := b.isLt
  simp only [BitVec.toNat_add, BitVec.toNat_setWidth]
  omega

/-- What the execute step of an instruction can do to pc and the skip outcome (10_state.md R28): it keeps both, sets the
skip outcome, jumps, or goes back for a key wait. -/
inductive ControlEffect (s t : State) (i : Instr) : Prop
  | keeps (hpc : t.pc = s.pc) (hskip : t.skip = s.skip)
  | skips (hpc : t.pc = s.pc) (hi : (skipCondition s i).isSome = true)
  | jumps (nnn : Addr) (hi : i = .jp nnn ∨ i = .call nnn) (hpc : t.pc = nnn.setWidth 16) (hskip : t.skip = s.skip)
  | returns (hi : i = .ret) (k : Fin 16) (hk : s.sp.val = k.val + 1) (hpc : t.pc = s.stack[k]) (hskip : t.skip = s.skip)
  | jumpsFrom (nnn : Addr) (hi : i = .jpV0 nnn) (hpc : t.pc = nnn.setWidth 16 + (s.jumpOffset nnn).setWidth 16)
      (hskip : t.skip = s.skip)
  | waits (x : RegIdx) (hi : i = .ldVxK x) (hkeys : s.keys = 0) (hpc : t.pc = s.pc - 2) (hskip : t.skip = s.skip)

/-- Every instruction has one of the effects above; one that raises its fault keeps pc and the skip outcome. -/
theorem exec_controlEffect {i : Instr} {s t : State} (h : exec i s = .next t) : ControlEffect s t i := by
  cases i
  case jp nnn => cases h; exact .jumps nnn (.inl rfl) rfl rfl
  case jpV0 nnn => cases h; exact .jumpsFrom nnn rfl rfl rfl
  case call nnn =>
    simp only [exec, execCall] at h
    by_cases hsp : s.sp.val < 16
    · rw [State.push_eq_some _ _ hsp] at h
      cases h; exact .jumps nnn (.inr rfl) rfl rfl
    · rw [State.push_eq_none _ _ (by omega)] at h
      cases h; exact .keeps rfl rfl
  case ret =>
    simp only [exec, execRet] at h
    by_cases hsp : 0 < s.sp.val
    · rw [State.pop_eq_some _ hsp] at h
      cases h; exact .returns rfl ⟨s.sp.val - 1, by omega⟩ (Nat.sub_add_cancel hsp).symm rfl rfl
    · rw [State.pop_eq_none _ (by omega)] at h
      cases h; exact .keeps rfl rfl
  case ldVxK x =>
    simp only [exec, execLdVxK] at h
    split at h
    · cases h; exact .keeps rfl rfl
    · rename_i hnone
      cases h; exact .waits x rfl (s.lowestHeld_eq_none.mp hnone) rfl rfl
  case addI x =>
    simp only [exec, execAddI] at h
    split at h <;> cases h <;> exact .keeps rfl rfl
  case drw x y n =>
    simp only [exec, execDrw] at h
    split at h <;> cases h <;> exact .keeps rfl rfl
  case ldB x =>
    simp only [exec, execLdB] at h
    split at h <;> cases h <;> exact .keeps rfl rfl
  case storeRegs x =>
    simp only [exec, execStoreRegs] at h
    split at h <;> cases h <;> exact .keeps (by simp) (by simp)
  case loadRegs x =>
    simp only [exec, execLoadRegs] at h
    split at h <;> cases h <;> exact .keeps (by simp) (by simp)
  case seImm | sneImm | seReg | sneReg | skp | sknp => cases h; exact .skips rfl rfl
  all_goals cases h; exact .keeps rfl rfl

/-- With the skip outcome clear, step 5 of the cycle does nothing. -/
theorem State.endCycle_of_not_skip {s : State} (h : s.skip = false) : s.endCycle = s := by
  rw [endCycle_eq, if_neg (by simp [h])]

/-- Step 5 of the cycle leaves pc or advances it. -/
theorem State.endCycle_pc : s.endCycle.pc = s.pc ∨ s.endCycle.pc = s.pc + 2 := by
  rw [endCycle_eq]
  split
  · exact .inr rfl
  · exact .inl rfl

end Sys2Proof.Machine

namespace Sys2Proof.Proofs

open Machine

/-- Where the end of a cycle puts pc, as `Obligations.PcMovesOnlyAsSpecified` lists it (10_state.md R28). -/
def PcMoved (i : Instr) (s t : State) : Prop :=
  t.pc.toNat = s.pc.toNat + 2
    ∨ (t.pc.toNat = s.pc.toNat + 4 ∧ (skipCondition s i).isSome = true)
    ∨ (∃ nnn : Addr, (i = .jp nnn ∨ i = .call nnn) ∧ t.pc.toNat = nnn.toNat)
    ∨ (i = .ret ∧ ∃ k : Fin 16, s.sp.val = k.val + 1 ∧ t.pc = s.stack[k])
    ∨ (∃ nnn : Addr, i = .jpV0 nnn ∧ nnn.toNat ≤ t.pc.toNat ∧ t.pc.toNat ≤ nnn.toNat + 0xFF)
    ∨ (∃ x, i = .ldVxK x ∧ t.keys = 0 ∧ t.pc = s.pc)

/-- Which instructions skip does not depend on the state. -/
theorem isSome_skipCondition_congr (i : Instr) (s t : State) :
    (skipCondition s i).isSome = (skipCondition t i).isSome := by
  cases i <;> rfl

/-- A cycle whose execute step completes moves pc only as listed. -/
theorem pcMoved_of_completes {s u : State} {rest : List AgentMove} {i : Instr} (hp : s.pc.toNat + 1 ≤ 0xFFF)
    (he : exec i (atExecute s rest) = .next u) (hc : Completes (atExecute s rest) u) : PcMoved i s u.endCycle := by
  have hadd : (s.pc + 2).toNat = s.pc.toNat + 2 := by bv_omega
  cases exec_controlEffect he with
  | keeps hpc hskip =>
    rw [State.endCycle_of_not_skip hskip]
    exact .inl (hpc ▸ hadd)
  | skips hpc hi =>
    obtain h | h := u.endCycle_pc
    · exact .inl (by rw [h, hpc]; exact hadd)
    · refine .inr (.inl ⟨?_, isSome_skipCondition_congr i _ _ ▸ hi⟩)
      have hpc : u.pc = s.pc + 2 := hpc
      bv_omega
  | jumps nnn hi hpc hskip =>
    rw [State.endCycle_of_not_skip hskip]
    refine .inr (.inr (.inl ⟨nnn, hi, ?_⟩))
    rw [hpc, BitVec.toNat_setWidth_of_le (by decide)]
  | returns hi k hk hpc hskip =>
    rw [State.endCycle_of_not_skip hskip]
    exact .inr (.inr (.inr (.inl ⟨hi, k, hk, hpc⟩)))
  | jumpsFrom nnn hi hpc hskip =>
    rw [State.endCycle_of_not_skip hskip]
    have hsum := hpc ▸ toNat_jumpTarget nnn ((atExecute s rest).jumpOffset nnn)
    exact .inr (.inr (.inr (.inr (.inl ⟨nnn, hi, by omega, by omega⟩))))
  | waits x hi hkeys hpc hskip =>
    rw [State.endCycle_of_not_skip hskip]
    refine .inr (.inr (.inr (.inr (.inr ⟨x, hi, hc.keys.trans hkeys, ?_⟩))))
    rw [hpc]
    exact BitVec.add_sub_cancel _ _

/-- Every listed place of pc lies at 0x10FE or below, the farthest that BNNN reaches (10_state.md R28). -/
theorem PcMoved.le_of_inv {i : Instr} {s t : State} (h : PcMoved i s t) (hp : s.pc.toNat + 1 ≤ 0xFFF) (hinv : Inv s) :
    t.pc.toNat ≤ 0x10FE := by
  obtain h | ⟨h, -⟩ | ⟨nnn, -, h⟩ | ⟨-, k, hk, h⟩ | ⟨nnn, -, -, h⟩ | ⟨x, -, -, h⟩ := h
  · omega
  · omega
  · have := nnn.isLt; omega
  · have := hinv.returns k (by omega); rw [h]; omega
  · have := nnn.isLt; omega
  · rw [h]; omega

/-- Settles O53: a turn without a fault completes its instruction, whose effect on pc is one of the listed ones. -/
theorem pcMovesOnlyAsSpecified : Obligations.PcMovesOnlyAsSpecified := by
  intro s t rest i hturn hp hdec hstep hrun
  suffices hmoved : PcMoved i s t from ⟨hmoved, hmoved.le_of_inv hp⟩
  obtain ⟨hfetch, -⟩ | ⟨-, ⟨u, hu⟩, -⟩ | ⟨-, j, hj, ⟨k, o, -, rfl⟩ | ⟨u, he, hc, rfl⟩⟩ :=
    enginesTurn_cases hturn hstep
  · omega
  · cases hdec.symm.trans hu
  · cases hrun
  · cases hdec.symm.trans hj
    exact pcMoved_of_completes hp he hc

end Sys2Proof.Proofs
end

section
/-! PROOFS. Placing a program's bytes, and what `init` constructs (20_memory.md R61 to R66). -/

namespace Sys2Proof.Machine

variable (s : State)

/-- Placing bytes changes memory and nothing else. -/
theorem State.placeBytes_eq (a : Nat) (p : List Byte) :
    s.placeBytes a p = { s with mem := (s.placeBytes a p).mem } := by
  induction p generalizing s a with
  | nil => rfl
  | cons b p ih => rw [State.placeBytes, ih]; rfl

/-- An address outside the placed range reads as before. -/
theorem State.byteAt_placeBytes_outside {a : Nat} {p : List Byte} (ha : a + p.length ≤ 0x1000) {c : Nat}
    (hc : c < a ∨ a + p.length ≤ c) : (s.placeBytes a p).byteAt c = s.byteAt c := by
  induction p generalizing s a with
  | nil => rfl
  | cons b p ih =>
    rw [List.length_cons] at ha hc
    rw [State.placeBytes, ih _ (by omega) (by omega), State.byteAt_memWrite _ (by omega), if_neg (by omega)]

/-- The placed range reads as the placed bytes: no byte is written over by a later one. -/
theorem State.byteAt_placeBytes_inside {a : Nat} {p : List Byte} (ha : a + p.length ≤ 0x1000) {k : Nat}
    (hk : k < p.length) : (s.placeBytes a p).byteAt (a + k) = p[k] := by
  induction p generalizing s a k with
  | nil => cases hk
  | cons b p ih =>
    rw [List.length_cons] at ha hk
    rw [State.placeBytes]
    cases k with
    | zero =>
      rw [State.byteAt_placeBytes_outside _ (by omega) (by omega), State.byteAt_memWrite _ (by omega)]
      exact if_pos rfl
    | succ k =>
      have h := ih (s.memWrite a b) (a := a + 1) (by omega) (Nat.lt_of_succ_lt_succ hk)
      rwa [Nat.add_right_comm] at h

/-- The glyph table stands at 0x50 (20_memory.md R62, R63). -/
theorem unlistedByte_glyph (font : Vector Byte 80) {k : Nat} (hk : k < 80) :
    unlistedByte font (0x50 + k) = font[k] := by
  unfold unlistedByte
  rw [dif_pos (by omega)]
  simp only [Nat.add_sub_cancel_left]

/-- Outside the glyph table every byte is 0 at first (20_memory.md R61). -/
theorem unlistedByte_eq_zero (font : Vector Byte 80) {a : Nat} (ha : a < 0x50 ∨ 0x9F < a) :
    unlistedByte font a = 0 :=
  dif_neg (by omega)

/-- Before a program is placed, every address reads as an unlisted one. -/
@[simp] theorem State.byteAt_construct (cfg : Config) (a : Nat) :
    (State.construct cfg).byteAt a = unlistedByte cfg.font a := rfl

/-- A program of at most `progMax` bytes is placed. -/
theorem init_of_fits (cfg : Config) (agenda : List AgentMove) {p : List Byte} (hp : p.length ≤ progMax) :
    init cfg agenda p = .machine { (State.construct cfg).placeBytes progBase p with agenda := agenda } :=
  if_neg (Nat.not_lt.mpr hp)

/-- A longer program is refused, with its length and the bound (20_memory.md R65). -/
theorem init_of_tooBig (cfg : Config) (agenda : List AgentMove) {p : List Byte} (hp : progMax < p.length) :
    init cfg agenda p = .programTooBig p.length progMax :=
  if_pos hp

end Sys2Proof.Machine

namespace Sys2Proof.Proofs

open Machine

/-- Settles O52: construction leaves the glyph table and zeros, and placing the program, which ends by 0xFFF, changes
its own range of memory and nothing else. -/
theorem initPlacesProgram : Obligations.InitPlacesProgram := by
  intro cfg agenda p
  refine ⟨fun hp => ?_, init_of_tooBig cfg agenda⟩
  have hend : 0x200 + p.length ≤ 0x1000 := by omega
  have houtside {c : Nat} (hc : c < 0x200 ∨ 0x200 + p.length ≤ c) :
      ((State.construct cfg).placeBytes progBase p).byteAt c = unlistedByte cfg.font c :=
    (State.byteAt_placeBytes_outside _ hend hc).trans (State.byteAt_construct cfg c)
  refine ⟨_, init_of_fits cfg agenda hp, ?program, ?glyphs, ?zeros, ?frame⟩
  case program => exact fun k hk => State.byteAt_placeBytes_inside _ hend hk
  case glyphs => exact fun k hk => (houtside (by omega)).trans (unlistedByte_glyph cfg.font hk)
  case zeros => exact fun a hfont hprog => (houtside hprog).trans (unlistedByte_eq_zero cfg.font hfont)
  case frame => rw [State.placeBytes_eq]

end Sys2Proof.Proofs
end

section
/-! PROOFS. The fetch past the end of memory (20_memory.md R68). -/

namespace Sys2Proof.Machine

/-- With pc + 1 past 0xFFF the fetch raises its fault, and pc stays (20_memory.md R68). -/
theorem State.fetchAndExecute_pastEnd {s : State} (hp : 0xFFF < s.pc.toNat + 1) :
    s.fetchAndExecute = .next (s.raise .fetchOutOfBounds none s.pc none) :=
  if_pos hp

end Sys2Proof.Machine

namespace Sys2Proof.Proofs

open Machine

/-- Settles O41: the engine's turn is one cycle from the drained state, whose pc is the one before, so the cycle is the
fault at the fetch. -/
theorem fetchPastEndFaults : Obligations.FetchPastEndFaults := by
  intro s rest hturn hp
  exact ⟨_, (step_of_enginesTurn hturn).trans (State.fetchAndExecute_pastEnd hp), rfl, rfl, fun _ => rfl⟩

end Sys2Proof.Proofs
end

section
/-! PROOFS. Which words decode to SYS, CLS and RET (30_encoding.md R89, R90). -/

namespace Sys2Proof

/-- The instructions whose words have `op` = 0x0 (30_encoding.md R90). -/
def Instr.isOp0 : Instr → Bool
  | .sys _ | .cls | .ret => true
  | _ => false

/-- `op` is 0x0 exactly on the words below 0x1000. -/
theorem opField_toNat_eq_zero_iff (w : Word) : (opField w).toNat = 0 ↔ w.toNat < 0x1000 := by
  rw [opField, BitVec.extractLsb'_toNat, Nat.shiftRight_eq_div_pow]
  omega

/-- A word below 0x1000 is decoded by the first row of the table (30_encoding.md R89). -/
theorem decode_of_lt {w : Word} (hw : w.toNat < 0x1000) : decode w = decodeOp0 w := by
  simp only [decode, (opField_toNat_eq_zero_iff w).mpr hw]

theorem decodeOp0_eq_cls_iff (w : Word) : decodeOp0 w = .instr .cls ↔ w = 0x00E0 := by
  unfold decodeOp0
  split_ifs with hcls hret
  · exact iff_of_true rfl hcls
  · exact iff_of_false nofun hcls
  · exact iff_of_false nofun hcls

theorem decodeOp0_eq_ret_iff (w : Word) : decodeOp0 w = .instr .ret ↔ w = 0x00EE := by
  unfold decodeOp0
  split_ifs with hcls hret
  · exact iff_of_false nofun (hcls ▸ by decide)
  · exact iff_of_true rfl hret
  · exact iff_of_false nofun hret

theorem decodeOp0_eq_sys_iff (w : Word) (nnn : Addr) :
    decodeOp0 w = .instr (.sys nnn) ↔ w ≠ 0x00E0 ∧ w ≠ 0x00EE ∧ nnnField w = nnn := by
  unfold decodeOp0
  split_ifs with hcls hret
  · exact iff_of_false nofun fun h => h.1 hcls
  · exact iff_of_false nofun fun h => h.2.1 hret
  · rw [Decoded.instr.injEq, Instr.sys.injEq, and_iff_right hcls, and_iff_right hret]

/-- No row of the table but the first gives SYS, CLS or RET. -/
theorem lt_of_decode_isOp0 {w : Word} {i : Instr} (h : decode w = .instr i) (hi : i.isOp0 = true) :
    w.toNat < 0x1000 := by
  unfold decode at h
  split at h
  next hop => exact (opField_toNat_eq_zero_iff w).mp hop
  case h_6 | h_10 =>
    split at h <;> cases h
    cases hi
  case h_9 | h_15 | h_16 =>
    simp only [decodeOp8, decodeOpE, decodeOpF] at h
    split at h <;> cases h <;> cases hi
  all_goals cases h; cases hi

/-- SYS, CLS and RET are what the first row of the table gives, and it is read below 0x1000 only. -/
theorem decode_eq_iff_of_isOp0 (w : Word) {i : Instr} (hi : i.isOp0 = true) :
    decode w = .instr i ↔ w.toNat < 0x1000 ∧ decodeOp0 w = .instr i := by
  constructor
  · intro h
    have hw := lt_of_decode_isOp0 h hi
    exact ⟨hw, decode_of_lt hw ▸ h⟩
  · rintro ⟨hw, h⟩
    exact (decode_of_lt hw).trans h

end Sys2Proof

namespace Sys2Proof.Proofs

/-- Settles O4: the three come from the first row of the table alone, which compares the word with 00E0 and 00EE; both
lie below 0x1000. -/
theorem machineCodeCallWords : Obligations.MachineCodeCallWords := by
  intro w
  refine ⟨?sys, ?cls, ?ret⟩
  case sys =>
    simp only [decode_eq_iff_of_isOp0 w (i := .sys _) rfl, decodeOp0_eq_sys_iff, exists_and_left, exists_eq',
      and_true]
  case cls =>
    rw [decode_eq_iff_of_isOp0 w rfl, decodeOp0_eq_cls_iff, and_iff_right_iff_imp]
    rintro rfl
    decide
  case ret =>
    rw [decode_eq_iff_of_isOp0 w rfl, decodeOp0_eq_ret_iff, and_iff_right_iff_imp]
    rintro rfl
    decide

end Sys2Proof.Proofs
end

section
/-! PROOFS. The display instructions (40_display.md R100 to R104). -/

namespace Sys2Proof

/-- A word that matches DXYN's row is decoded by it (30_encoding.md R89). -/
theorem decode_of_opField_drw {w : Word} (h : opField w = 0xD) :
    decode w = .instr (.drw (xField w) (yField w) (nField w)) := by
  simp [decode, h]

/-- Layout `XYN` as the table writes it: each field shifted to its place (30_encoding.md R87). -/
theorem layoutXYN_eq_or (op : BitVec 4) (x y : RegIdx) (n : Nibble) :
    layoutXYN op x y n =
      (op.setWidth 16 <<< 12) ||| (x.setWidth 16 <<< 8) ||| (y.setWidth 16 <<< 4) ||| n.setWidth 16 := by
  unfold layoutXYN
  apply BitVec.eq_of_getLsbD_eq
  intro k hk
  simp only [BitVec.getLsbD_append, BitVec.getLsbD_or, BitVec.getLsbD_shiftLeft, BitVec.getLsbD_setWidth]
  interval_cases k <;> simp

end Sys2Proof

namespace Sys2Proof.Machine

theorem flagByte_eq_one_iff (b : Bool) : flagByte b = 1 ↔ b = true := by
  revert b; decide

theorem flagByte_eq_zero_iff (b : Bool) : flagByte b = 0 ↔ b = false := by
  revert b; decide

/-- Two rows share a bit exactly when some column is lit in both (10_state.md R37). -/
theorem row_and_ne_zero_iff (a b : Row) :
    a &&& b ≠ 0 ↔ ∃ c : Fin 64, a.getLsbD (63 - c.val) = true ∧ b.getLsbD (63 - c.val) = true := by
  constructor
  · contrapose!
    intro hnone
    refine BitVec.eq_of_getLsbD_eq fun k hk => ?_
    have hcol : 63 - (63 - k) = k := by omega
    simpa [hcol] using hnone ⟨63 - k, by omega⟩
  · rintro ⟨c, ha, hb⟩ h
    have := congrArg (fun row : Row => row.getLsbD (63 - c.val)) h
    simp [ha, hb] at this

variable (s : State) (x y : RegIdx) (n : Nibble)

/-- The state a DXYN that passes its range check answers (40_display.md R101). -/
def State.drawSprite : State :=
  let drawn := drawRows s s.i.toNat (s.spriteColumn x) (s.spriteRow y) n.toNat
  (s.writeV vf (flagByte drawn.2)).showFB drawn.1

/-- What a draw flips in row `r`: the mask of its sprite byte, or nothing outside the sprite's rows. -/
def State.flipMask (r : Fin 32) : Row :=
  if s.spriteRow y ≤ r.val ∧ r.val < s.spriteRow y + n.toNat then
    spriteMask (s.byteAt (s.i.toNat + (r.val - s.spriteRow y))) (s.spriteColumn x)
  else 0

variable {s n}

/-- With its bytes in memory, DXYN draws (decision D19). -/
theorem exec_drw_of_fits (h : n = 0 ∨ s.i.toNat + n.toNat - 1 ≤ 0xFFF) :
    exec (.drw x y n) s = .next (s.drawSprite x y n) := by
  have hcheck : s.checkI n.toNat = none := checkRange_eq_none (h.imp_left (congrArg BitVec.toNat))
  simp only [exec, execDrw, hcheck, State.drawSprite]

/-- With a byte outside memory, DXYN raises its fault (decision D19). -/
theorem exec_drw_of_leavesMemory (hn : n ≠ 0) (h : 0xFFF < s.i.toNat + n.toNat - 1) :
    exec (.drw x y n) s =
      .next (s.raiseFor (.drw x y n) .memoryOutOfBounds (some (BitVec.ofNat 16 (max s.i.toNat 0x1000)))) := by
  have hpos : 0 < n.toNat := Nat.pos_of_ne_zero fun h0 => hn (BitVec.eq_of_toNat_eq h0)
  have hcheck : s.checkI n.toNat = _ := checkRange_eq_some hpos h
  simp only [exec, execDrw, hcheck]

variable (s n)

theorem State.readV_drawSprite (r : RegIdx) :
    (s.drawSprite x y n).readV r =
      if r = vf then flagByte (drawRows s s.i.toNat (s.spriteColumn x) (s.spriteRow y) n.toNat).2 else s.readV r :=
  s.readV_writeV vf r _

/-- VF is set when a drawn row's mask meets a lit pixel (40_display.md R101). -/
theorem State.drawSprite_vf_eq_one_iff :
    (s.drawSprite x y n).readV vf = 1 ↔
      ∃ k, k < n.toNat ∧ ∃ h : s.spriteRow y + k < 32,
        s.fb[s.spriteRow y + k] &&& spriteMask (s.byteAt (s.i.toNat + k)) (s.spriteColumn x) ≠ 0 := by
  rw [readV_drawSprite, if_pos rfl, flagByte_eq_one_iff, drawRows_collided]

theorem State.drawSprite_vf_eq_zero_or_one :
    (s.drawSprite x y n).readV vf = 0 ∨ (s.drawSprite x y n).readV vf = 1 := by
  rw [readV_drawSprite, if_pos rfl, flagByte_eq_zero_iff, flagByte_eq_one_iff]
  exact (Bool.eq_false_or_eq_true _).symm

theorem State.drawSprite_row (r : Fin 32) : (s.drawSprite x y n).fb[r] = s.fb[r] ^^^ s.flipMask x y n r := by
  refine (drawRows_row s s.i.toNat (s.spriteColumn x) (s.spriteRow y) n.toNat r).trans ?_
  unfold flipMask
  split
  · rfl
  · exact BitVec.xor_zero.symm

theorem State.pixel_drawSprite (c : Fin 64) (r : Fin 32) :
    pixel (s.drawSprite x y n).fb c r = (pixel s.fb c r ^^ (s.flipMask x y n r).getLsbD (63 - c.val)) := by
  rw [pixel, drawSprite_row, BitVec.getLsbD_xor, pixel]

/-- The sprite's pixels: sprite bit 7 - d on column cx + d of its rows, and none past the edges (40_display.md R102). -/
theorem State.getLsbD_flipMask (c : Fin 64) (r : Fin 32) :
    (s.flipMask x y n r).getLsbD (63 - c.val) =
      (decide (s.spriteColumn x ≤ c.val ∧ c.val < s.spriteColumn x + 8
          ∧ s.spriteRow y ≤ r.val ∧ r.val < s.spriteRow y + n.toNat)
        && (s.byteAt (s.i.toNat + (r.val - s.spriteRow y))).getLsbD (7 - (c.val - s.spriteColumn x))) := by
  unfold flipMask
  split
  next hr => simp [getLsbD_spriteMask, hr]
  next hr => simp [hr]

/-- VF in terms of rows of the screen: some row has a lit pixel that the draw flips. -/
theorem State.drawSprite_vf_eq_one_iff_row :
    (s.drawSprite x y n).readV vf = 1 ↔ ∃ r : Fin 32, s.fb[r] &&& s.flipMask x y n r ≠ 0 := by
  rw [drawSprite_vf_eq_one_iff]
  constructor
  · rintro ⟨k, hk, hrow, h⟩
    refine ⟨⟨s.spriteRow y + k, hrow⟩, ?_⟩
    rwa [flipMask, if_pos ⟨Nat.le_add_right _ _, Nat.add_lt_add_left hk _⟩, Nat.add_sub_cancel_left]
  · rintro ⟨r, h⟩
    unfold flipMask at h
    split at h
    next hr =>
      have hk : s.spriteRow y + (r.val - s.spriteRow y) = r.val := Nat.add_sub_cancel' hr.1
      refine ⟨r.val - s.spriteRow y, by omega, by omega, ?_⟩
      simpa only [hk, Fin.getElem_fin] using h
    next => exact absurd BitVec.and_zero h

/-- VF in terms of pixels: the draw turned a lit pixel dark (40_display.md R102, R103). -/
theorem State.drawSprite_vf_eq_one_iff_pixel :
    (s.drawSprite x y n).readV vf = 1 ↔
      ∃ (c : Fin 64) (r : Fin 32), pixel s.fb c r = true ∧ pixel (s.drawSprite x y n).fb c r = false := by
  simp only [drawSprite_vf_eq_one_iff_row, row_and_ne_zero_iff, pixel_drawSprite]
  rw [exists_comm]
  refine exists_congr fun c => exists_congr fun r => and_congr_right fun hlit => ?_
  rw [show pixel s.fb c r = true from hlit, Bool.true_xor, Bool.not_eq_false']

/-- A second draw at the same start position flips the same pixels: I and memory are as they were. -/
theorem State.flipMask_drawSprite (hx : (s.drawSprite x y n).spriteColumn x = s.spriteColumn x)
    (hy : (s.drawSprite x y n).spriteRow y = s.spriteRow y) (r : Fin 32) :
    (s.drawSprite x y n).flipMask x y n r = s.flipMask x y n r := by
  unfold flipMask
  rw [hx, hy]
  rfl

/-- Flipping the same pixels twice restores the framebuffer (40_display.md R104). -/
theorem State.drawSprite_drawSprite_fb (hx : (s.drawSprite x y n).spriteColumn x = s.spriteColumn x)
    (hy : (s.drawSprite x y n).spriteRow y = s.spriteRow y) :
    ((s.drawSprite x y n).drawSprite x y n).fb = s.fb := by
  have hrow (r : Fin 32) : ((s.drawSprite x y n).drawSprite x y n).fb[r] = s.fb[r] :=
    calc ((s.drawSprite x y n).drawSprite x y n).fb[r]
      _ = (s.drawSprite x y n).fb[r] ^^^ (s.drawSprite x y n).flipMask x y n r := drawSprite_row _ x y n r
      _ = s.fb[r] ^^^ s.flipMask x y n r ^^^ s.flipMask x y n r := by
        rw [drawSprite_row, flipMask_drawSprite s x y n hx hy]
      _ = s.fb[r] := by rw [BitVec.xor_assoc, BitVec.xor_self, BitVec.xor_zero]
  exact Vector.ext fun k hk => hrow ⟨k, hk⟩

end Sys2Proof.Machine

namespace Sys2Proof.Proofs

open Machine

/-- Settles O6: the cleared framebuffer is shown. -/
theorem clsClearsDisplay : Obligations.ClsClearsDisplay := by
  refine ⟨fun w hw => ?_, fun s => ⟨s.showFB clearedFB, rfl, fun r => ?_, rfl, rfl, fun _ => rfl⟩⟩
  · obtain rfl : w = 0x00E0 := BitVec.and_allOnes.symm.trans hw
    rfl
  · exact Vector.getElem_replicate r.isLt

/-- Settles O7: the range check decides between the draw, whose rows and flag are those of `State.drawSprite`, and the
fault. -/
theorem drwDrawsSpriteRows : Obligations.DrwDrawsSpriteRows := by
  refine ⟨fun w hw => decode_of_opField_drw (opField_of_mask hw),
    fun x y n s => ⟨fun hfits => ?draws, fun hn hout => ?faults⟩⟩
  case draws =>
    refine ⟨s.drawSprite x y n, exec_drw_of_fits x y hfits, ?rows, ?collision, ?clear, rfl, ?registers, rfl,
      fun _ => rfl⟩
    case rows => exact drawRows_row s s.i.toNat (s.spriteColumn x) (s.spriteRow y) n.toNat
    case collision => exact (s.drawSprite_vf_eq_one_iff x y n).mpr
    case clear =>
      intro hnone
      refine (s.drawSprite_vf_eq_zero_or_one x y n).resolve_right fun hone => ?_
      obtain ⟨k, hk, hrow, hmeets⟩ := (s.drawSprite_vf_eq_one_iff x y n).mp hone
      exact hmeets (hnone k hk hrow)
    case registers => exact fun r hr => (s.readV_drawSprite x y n r).trans (if_neg hr)
  case faults =>
    refine ⟨_, exec_drw_of_leavesMemory x y hn hout, ?_, fun _ => rfl⟩
    rw [State.raiseFor, encode, layoutXYN_eq_or]
    rfl

/-- Settles O8: a draw flips the sprite's pixels that lie on the screen, and VF reports a lit one among them. -/
theorem drwClipsAtEdges : Obligations.DrwClipsAtEdges := by
  intro x y n s hfits
  refine ⟨s.drawSprite x y n, exec_drw_of_fits x y hfits, fun c r => ?_, s.drawSprite_vf_eq_one_iff_pixel x y n⟩
  rw [State.pixel_drawSprite, State.getLsbD_flipMask]
  rfl

/-- Settles O9: the second draw flips the same pixels back, so the pixels it turns dark are those the first lit. -/
theorem drawingTwiceRestores : Obligations.DrawingTwiceRestores := by
  intro x y n s hfits
  refine ⟨s.drawSprite x y n, exec_drw_of_fits x y hfits, fun hx hy => ?_⟩
  have hfb := s.drawSprite_drawSprite_fb x y n hx hy
  refine ⟨_, exec_drw_of_fits x y hfits, hfb, ?_, State.drawSprite_vf_eq_zero_or_one _ x y n⟩
  refine (State.drawSprite_vf_eq_one_iff_pixel _ x y n).trans ?_
  simp only [hfb, and_comm]

end Sys2Proof.Proofs
end

section
/-! PROOFS. The control-flow instructions (41_control_flow.md R110 to R119). -/

namespace Sys2Proof

/-- A row that fixes the opcode nibble alone is decoded by that nibble (30_encoding.md R87, R89). -/
theorem decodesRow_of_opField {bits : Word} {instr : Word → Instr}
    (h : ∀ w, opField w = opField bits → decode w = .instr (instr w)) : DecodesRow 0xF000 bits instr :=
  fun w hw => h w (opField_of_mask hw)

/-- A row of layout `XY0` is decoded by its opcode nibble and its low nibble (30_encoding.md R87, R89). -/
theorem decodesRow_of_opField_nField {bits : Word} {instr : Word → Instr}
    (h : ∀ w, opField w = opField bits → nField w = nField bits → decode w = .instr (instr w)) :
    DecodesRow 0xF00F bits instr := fun w hw =>
  have ⟨hop, hn⟩ := fields_of_mask_XYN hw
  h w hop hn

/-- Layout `A` as the table writes it: each field shifted to its place (30_encoding.md R87). -/
theorem layoutA_eq_or (op : BitVec 4) (nnn : Addr) :
    layoutA op nnn = (op.setWidth 16 <<< 12) ||| nnn.setWidth 16 := by
  unfold layoutA
  apply BitVec.eq_of_getLsbD_eq
  intro k hk
  simp only [BitVec.getLsbD_append, BitVec.getLsbD_or, BitVec.getLsbD_shiftLeft, BitVec.getLsbD_setWidth]
  interval_cases k <;> simp

end Sys2Proof

namespace Sys2Proof.Machine

variable (s : State)

/-- Raising an instruction's fault is the fault of 60_exceptions.md R170 with that instruction's word. -/
theorem State.faultRaised_raiseFor {i : Instr} {w : Word} (hw : encode i = w) (k : FaultKind) (o : Option Word) :
    FaultRaised k w o s (s.raiseFor i k o) :=
  hw ▸ ⟨rfl, fun _ => rfl⟩

/-- A jump changes pc and nothing else (10_state.md R44). -/
theorem State.loadPc_frame (t : Word) : s.loadPc t = { s with pc := (s.loadPc t).pc } ∧ SameBytes s (s.loadPc t) :=
  ⟨rfl, fun _ => rfl⟩

/-- The state a CALL that finds room answers (41_control_flow.md R113). -/
def State.callTo (nnn : Addr) (h : s.sp.val < 16) : State :=
  { s with stack := s.stack.set s.sp.val s.pc h, sp := ⟨s.sp.val + 1, by omega⟩, pc := nnn.setWidth 16 }

/-- With room on the stack, CALL pushes pc and jumps. -/
theorem exec_call_of_room (nnn : Addr) (h : s.sp.val < 16) : exec (.call nnn) s = .next (s.callTo nnn h) := by
  simp only [exec, execCall, State.push_eq_some s s.pc h]
  rfl

/-- On a full stack, CALL raises its fault. -/
theorem exec_call_of_full (nnn : Addr) (h : s.sp.val = 16) :
    exec (.call nnn) s = .next (s.raiseFor (.call nnn) .stackOverflow none) := by
  simp only [exec, execCall, State.push_eq_none s s.pc h]

/-- The skip primitive sets the skip outcome or does nothing (00_scope.md R10). -/
theorem State.skipIf_eq (c : Bool) : s.skipIf c = if c = true then { s with skip := true } else s := by
  cases c <;> rfl

theorem State.skipIf_beq (a b : Byte) :
    s.skipIf (a == b) = if a.toNat = b.toNat then { s with skip := true } else s := by
  simp only [skipIf_eq, beq_iff_eq, BitVec.toNat_inj]

theorem State.skipIf_bne (a b : Byte) :
    s.skipIf (a != b) = if a.toNat = b.toNat then s else { s with skip := true } := by
  simp only [skipIf_eq, bne_iff_ne, ne_eq, BitVec.toNat_inj, ite_not]

theorem State.jumpOffset_v0 {s : State} (h : s.cfg.jumpBase = .v0) (nnn : Addr) : s.jumpOffset nnn = s.readV 0 := by
  simp only [jumpOffset, h]

theorem State.jumpOffset_vx {s : State} (h : s.cfg.jumpBase = .vx) (nnn : Addr) :
    s.jumpOffset nnn = s.readV (addrX nnn) := by
  simp only [jumpOffset, h]

end Sys2Proof.Machine

namespace Sys2Proof.Proofs

open Machine

/-- Settles O10: a word of the first row that is neither CLS nor RET is SYS, and the meaning of SYS is its fault. -/
theorem sysRaisesMachineCodeCall : Obligations.SysRaisesMachineCodeCall := by
  refine ⟨fun w hw hcls hret => ?decodes, fun nnn s => ?raises⟩
  case decodes =>
    have hop : opField w = 0 := opField_of_mask hw
    have hlt : w.toNat < 0x1000 := (opField_toNat_eq_zero_iff w).mp (congrArg BitVec.toNat hop)
    exact (decode_of_lt hlt).trans ((decodeOp0_eq_sys_iff w _).mpr ⟨hcls, hret, rfl⟩)
  case raises =>
    have hword : encode (.sys nnn) = nnn.setWidth 16 := (layoutA_eq_or 0 nnn).trans BitVec.zero_or
    exact ⟨_, rfl, s.faultRaised_raiseFor hword _ _⟩

/-- Settles O12: JP loads pc with nnn, which 16 bits hold. -/
theorem jpJumps : Obligations.JpJumps := by
  refine ⟨decodesRow_of_opField fun w hop => ?_, fun nnn s => ⟨_, rfl, ?_, s.loadPc_frame _⟩⟩
  · simp only [decode, hop]; rfl
  · exact BitVec.toNat_setWidth_of_le (by decide)

/-- Settles O13: room on the stack decides between the push with its jump and the fault. -/
theorem callPushesReturnAddress : Obligations.CallPushesReturnAddress := by
  refine ⟨decodesRow_of_opField fun w hop => ?decodes, fun nnn s => ⟨fun hroom => ?pushes, fun hfull => ?raises⟩⟩
  case decodes => simp only [decode, hop]; rfl
  case pushes =>
    refine ⟨_, exec_call_of_room s nnn hroom, ?pushed, ?kept, rfl, ?target, rfl, fun _ => rfl⟩
    case pushed => exact Vector.getElem_set_self hroom
    case kept => exact fun k hk => Vector.getElem_set_ne hroom k.isLt (Ne.symm hk)
    case target => exact BitVec.toNat_setWidth_of_le (by decide)
  case raises =>
    have hword : encode (.call nnn) = 0x2000 ||| nnn.setWidth 16 := layoutA_eq_or 0x2 nnn
    exact ⟨_, exec_call_of_full s nnn hfull, s.faultRaised_raiseFor hword _ _⟩

/-- Settles O15: each register skip is the skip primitive on the comparison of its two operands. -/
theorem registerSkips : Obligations.RegisterSkips := by
  refine ⟨decodesRow_of_opField fun w hop => ?seImm, decodesRow_of_opField fun w hop => ?sneImm,
    decodesRow_of_opField_nField fun w hop hn => ?seReg, decodesRow_of_opField_nField fun w hop hn => ?sneReg,
    fun x y nn s => ⟨?equalImm, ?unequalImm, ?equalReg, ?unequalReg⟩⟩
  case seImm | sneImm => simp only [decode, hop]; rfl
  case seReg | sneReg => simp only [decode, hop, hn]; rfl
  case equalImm => exact congrArg _ (s.skipIf_beq (s.readV x) nn)
  case unequalImm => exact congrArg _ (s.skipIf_bne (s.readV x) nn)
  case equalReg => exact congrArg _ (s.skipIf_beq (s.readV x) (s.readV y))
  case unequalReg => exact congrArg _ (s.skipIf_bne (s.readV x) (s.readV y))

/-- Settles O17: the target is the exact sum of nnn and the offset, whose register the configuration names. -/
theorem jpV0AddsOffset : Obligations.JpV0AddsOffset := by
  refine ⟨decodesRow_of_opField fun w hop => ?decodes,
    fun nnn s => ⟨_, rfl, fun hv0 => ?v0, fun hvx => ?vx, s.loadPc_frame _⟩⟩
  case decodes => simp only [decode, hop]; rfl
  case v0 => exact State.jumpOffset_v0 hv0 nnn ▸ toNat_jumpTarget nnn (s.jumpOffset nnn)
  case vx => exact State.jumpOffset_vx hvx nnn ▸ toNat_jumpTarget nnn (s.jumpOffset nnn)

end Sys2Proof.Proofs
end

section
/-! PROOFS. The register and ALU instructions (42_alu.md R130 to R143). -/

namespace Sys2Proof

/-- With opcode nibble 0x8 the low nibble selects the instruction (30_encoding.md R89). -/
theorem decode_of_opField_eq_8 {w : Word} (h : opField w = 0x8) : decode w = decodeOp8 w := by
  simp only [decode, h]
  rfl

/-- A row of the 8XYn group is decoded by its low nibble (30_encoding.md R89). -/
theorem decodesRow_of_decodeOp8 {bits : Word} {instr : Word → Instr} (hbits : opField bits = 0x8)
    (h : ∀ w, nField w = nField bits → decodeOp8 w = .instr (instr w)) : DecodesRow 0xF00F bits instr :=
  decodesRow_of_opField_nField fun w hop hn => (decode_of_opField_eq_8 (hop.trans hbits)).trans (h w hn)

end Sys2Proof

namespace Sys2Proof.Machine

/-! The flag computations (10_state.md R25). -/

theorem flagByte_decide (p : Prop) [Decidable p] : flagByte (decide p) = if p then 1 else 0 := by
  simp only [flagByte, decide_eq_true_eq]

theorem toNat_flagByte (c : Bool) : (flagByte c).toNat = c.toNat := by
  cases c <;> rfl

/-- Doubling a byte carries exactly when its top bit is set (42_alu.md R142). -/
theorem toNat_flagByte_carryOut_self (b : Byte) : (flagByte (carryOut b b)).toNat = b.toNat / 128 := by
  have hb := b.isLt
  rw [carryOut, flagByte_decide]
  split
  next => change 1 = b.toNat / 128; omega
  next => change 0 = b.toNat / 128; omega

/-- A byte minus itself does not borrow (42_alu.md R142). -/
theorem noBorrow_self (b : Byte) : noBorrow b b = true :=
  decide_eq_true le_rfl

/-- The bit a right shift by one loses is the remainder of halving (42_alu.md R139). -/
theorem toNat_flagByte_shiftedOutRight (b : Byte) : (flagByte (shiftedOutRight b)).toNat = b.toNat % 2 := by
  rw [toNat_flagByte, shiftedOutRight, BitVec.getLsbD, Nat.toNat_testBit, Nat.pow_zero, Nat.div_one]

/-- The bit a left shift by one loses is the carry out of doubling (42_alu.md R141). -/
theorem toNat_flagByte_shiftedOutLeft (b : Byte) : (flagByte (shiftedOutLeft b)).toNat = b.toNat / 128 := by
  have hb := b.isLt
  rw [toNat_flagByte, shiftedOutLeft, BitVec.getLsbD, Nat.toNat_testBit]
  omega

/-! What a register write leaves, and its frame. -/

variable (s : State) (x : RegIdx) (b : Byte) (c : Bool)

theorem State.readV_writeV_same : (s.writeV x b).readV x = b :=
  (s.readV_writeV x x b).trans (if_pos rfl)

/-- Writing back what a register holds changes nothing. -/
theorem State.writeV_eq_self {s : State} {x : RegIdx} {b : Byte} (h : b = s.readV x) : s.writeV x b = s := by
  have hv : (s.writeV x b).v = s.v := h ▸ Vector.set_getElem_self x.isLt
  exact congrArg (fun v => { s with v := v }) hv

theorem State.onlyRegsChange_writeV : OnlyRegsChange [x] s (s.writeV x b) :=
  ⟨rfl, fun r hr => (s.readV_writeV x r b).trans (if_neg (List.ne_of_not_mem_cons hr)), fun _ => rfl⟩

theorem State.readV_writeVFlag_vf : (s.writeVFlag x b c).readV 0xF = flagByte c :=
  (s.readV_writeVFlag x vf b c).trans (if_pos rfl)

theorem State.readV_writeVFlag_dest {x : RegIdx} (hx : x ≠ 0xF) : (s.writeVFlag x b c).readV x = b := by
  rw [readV_writeVFlag, if_neg hx, if_pos rfl]

theorem State.onlyRegsChange_writeVFlag : OnlyRegsChange [x, 0xF] s (s.writeVFlag x b c) := by
  refine ⟨rfl, fun r hr => ?_, fun _ => rfl⟩
  obtain ⟨hx, hvf⟩ : r ≠ x ∧ r ≠ vf := by simpa using hr
  rw [readV_writeVFlag, if_neg hvf, if_neg hx]

/-- The shifted value is that of the register `SHIFT_SOURCE` names (42_alu.md R139, R141). -/
theorem State.shiftOperand_eq_readV {s : State} {x y src : RegIdx}
    (h : (s.cfg.shiftSource = .vy ∧ src = y) ∨ (s.cfg.shiftSource = .vx ∧ src = x)) :
    s.shiftOperand x y = s.readV src := by
  obtain ⟨hcfg, rfl⟩ | ⟨hcfg, rfl⟩ := h <;> simp only [shiftOperand, hcfg]

end Sys2Proof.Machine

namespace Sys2Proof.Proofs

open Machine

/-- Settles O18: LD is the write of its immediate. -/
theorem ldImmLoads : Obligations.LdImmLoads := by
  refine ⟨decodesRow_of_opField fun w hop => ?_,
    fun x nn s => ⟨_, rfl, s.readV_writeV_same x nn, s.onlyRegsChange_writeV x nn⟩⟩
  simp only [decode, hop]; rfl

/-- Settles O19: ADD is the write of a sum of bytes, which wraps. -/
theorem addImmWrapsWithoutFlag : Obligations.AddImmWrapsWithoutFlag := by
  refine ⟨decodesRow_of_opField fun w hop => ?decodes,
    fun x nn s => ⟨_, rfl, ?sum, s.onlyRegsChange_writeV x _⟩⟩
  case decodes => simp only [decode, hop]; rfl
  case sum => rw [State.readV_writeV_same, BitVec.toNat_add]

/-- Settles O20: LD is the write of the source's value. -/
theorem ldRegCopies : Obligations.LdRegCopies := by
  refine ⟨decodesRow_of_decodeOp8 rfl fun w hn => ?_,
    fun x y s => ⟨_, rfl, s.readV_writeV_same x _, s.onlyRegsChange_writeV x _⟩⟩
  simp only [decodeOp8, hn]; rfl

/-- Settles O21: each of the three is the write of a bitwise operation, and nothing writes VF. -/
theorem logicOpsBitwise : Obligations.LogicOpsBitwise := by
  refine ⟨decodesRow_of_decodeOp8 rfl fun w hn => ?orRow, decodesRow_of_decodeOp8 rfl fun w hn => ?andRow,
    decodesRow_of_decodeOp8 rfl fun w hn => ?xorRow, fun x y s =>
      ⟨⟨_, rfl, fun k _ => ?orBit, s.onlyRegsChange_writeV x _⟩,
        ⟨_, rfl, fun k _ => ?andBit, s.onlyRegsChange_writeV x _⟩,
        ⟨_, rfl, fun k _ => ?xorBit, s.onlyRegsChange_writeV x _⟩⟩⟩
  case orRow | andRow | xorRow => simp only [decodeOp8, hn]; rfl
  case orBit => rw [State.readV_writeV_same, BitVec.getLsbD_or, Bool.or_eq_true]
  case andBit => rw [State.readV_writeV_same, BitVec.getLsbD_and, Bool.and_eq_true]
  case xorBit => rw [State.readV_writeV_same, BitVec.getLsbD_xor, bne_iff_ne]

/-- Settles O22: the sum goes to V[x], then the carry to VF. -/
theorem addRegCarries : Obligations.AddRegCarries := by
  refine ⟨decodesRow_of_decodeOp8 rfl fun w hn => ?decodes,
    fun x y s => ⟨_, rfl, fun hx => ?sum, ?carry, s.onlyRegsChange_writeVFlag x _ _⟩⟩
  case decodes => simp only [decodeOp8, hn]; rfl
  case sum => rw [State.readV_writeVFlag_dest _ _ _ hx, BitVec.toNat_add]
  case carry => rw [State.readV_writeVFlag_vf, carryOut, flagByte_decide]

/-- Settles O23: the difference goes to V[x], then the comparison of minuend and subtrahend to VF. -/
theorem subtractionsFlagNoBorrow : Obligations.SubtractionsFlagNoBorrow := by
  refine ⟨decodesRow_of_decodeOp8 rfl fun w hn => ?subRow, decodesRow_of_decodeOp8 rfl fun w hn => ?subnRow,
    fun x y s =>
      ⟨⟨_, rfl, fun hx => ?sub, ?subFlag, s.onlyRegsChange_writeVFlag x _ _⟩,
        ⟨_, rfl, fun hx => ?subn, ?subnFlag, s.onlyRegsChange_writeVFlag x _ _⟩⟩⟩
  case subRow | subnRow => simp only [decodeOp8, hn]; rfl
  case sub | subn =>
    rw [State.readV_writeVFlag_dest _ _ _ hx, BitVec.toNat_sub']
    omega
  case subFlag | subnFlag => rw [State.readV_writeVFlag_vf, noBorrow, flagByte_decide]

/-- Settles O24: the configured source, shifted, goes to V[x], then the bit it lost to VF. -/
theorem shiftsMoveBitToVF : Obligations.ShiftsMoveBitToVF := by
  refine ⟨decodesRow_of_decodeOp8 rfl fun w hn => ?shrRow, decodesRow_of_decodeOp8 rfl fun w hn => ?shlRow,
    fun x y src s hsrc =>
      ⟨⟨_, rfl, fun hx => ?half, ?low, s.onlyRegsChange_writeVFlag x _ _⟩,
        ⟨_, rfl, fun hx => ?double, ?high, s.onlyRegsChange_writeVFlag x _ _⟩⟩⟩
  case shrRow | shlRow => simp only [decodeOp8, hn]; rfl
  all_goals rw [State.shiftOperand_eq_readV hsrc]
  case half =>
    rw [State.readV_writeVFlag_dest _ _ _ hx, BitVec.toNat_ushiftRight, Nat.shiftRight_eq_div_pow, Nat.pow_one]
  case low => rw [State.readV_writeVFlag_vf, toNat_flagByte_shiftedOutRight]
  case double =>
    rw [State.readV_writeVFlag_dest _ _ _ hx, BitVec.toNat_shiftLeft, Nat.shiftLeft_eq, Nat.pow_one]
  case high => rw [State.readV_writeVFlag_vf, toNat_flagByte_shiftedOutLeft]

/-- Settles O25: moves write back what V[x] holds; a doubled byte carries exactly when its top bit is set; a byte minus
itself is 0 without a borrow; either shift source is V[x], so the shift rows are those of `shiftsMoveBitToVF`. -/
theorem sameRegisterTable : Obligations.SameRegisterTable := by
  intro x s
  have hsrc : (s.cfg.shiftSource = .vy ∧ x = x) ∨ (s.cfg.shiftSource = .vx ∧ x = x) := by
    cases s.cfg.shiftSource <;> simp
  obtain ⟨-, -, hshifts⟩ := shiftsMoveBitToVF
  obtain ⟨hshr, hshl⟩ := hshifts x x x s hsrc
  refine ⟨?move, ?or, ?and, ⟨_, rfl, ?xor, s.onlyRegsChange_writeV x _⟩,
    ⟨_, rfl, fun hx => ?double, ?carry, s.onlyRegsChange_writeVFlag x _ _⟩,
    ⟨_, rfl, fun hx => ?sub, ?subFlag, s.onlyRegsChange_writeVFlag x _ _⟩, hshr,
    ⟨_, rfl, fun hx => ?subn, ?subnFlag, s.onlyRegsChange_writeVFlag x _ _⟩, hshl⟩
  case move => exact congrArg _ (State.writeV_eq_self rfl)
  case or => exact congrArg _ (State.writeV_eq_self BitVec.or_self)
  case and => exact congrArg _ (State.writeV_eq_self BitVec.and_self)
  case xor => exact (s.readV_writeV_same x _).trans BitVec.xor_self
  case double => rw [State.readV_writeVFlag_dest _ _ _ hx, BitVec.toNat_add, Nat.two_mul]
  case carry => rw [State.readV_writeVFlag_vf, toNat_flagByte_carryOut_self]
  case sub | subn => exact (s.readV_writeVFlag_dest _ _ hx).trans (BitVec.sub_self _)
  case subFlag | subnFlag => exact (s.readV_writeVFlag_vf x _ _).trans (congrArg flagByte (noBorrow_self _))

/-- Settles O26: RND is the write of the masked byte and the count of the draw. -/
theorem rndMasksOneDraw : Obligations.RndMasksOneDraw := by
  refine ⟨decodesRow_of_opField fun w hop => ?decodes, fun x nn s => ?_⟩
  case decodes => simp only [decode, hop]; rfl
  have hx : ((s.writeV x (s.randomByte &&& nn)).countDraw).readV x = Config.randomByte s.draws &&& nn :=
    s.readV_writeV_same x _
  refine ⟨_, rfl, hx, fun k hk => ?masked, rfl, fun r hr => ?kept, rfl, fun _ => rfl⟩
  case masked => rw [hx, BitVec.getLsbD_and, hk, Bool.and_false]
  case kept => exact (s.readV_writeV x r _).trans (if_neg hr)

end Sys2Proof.Proofs
end

section
/-! PROOFS. The index register and memory instructions (43_index_memory.md R150 to R157). -/

namespace Sys2Proof

/-- With opcode nibble 0xF the low byte selects the instruction (30_encoding.md R89). -/
theorem decode_of_opField_eq_F {w : Word} (h : opField w = 0xF) : decode w = decodeOpF w := by
  simp only [decode, h]
  rfl

/-- A row of the FX group is decoded by its low byte (30_encoding.md R89). -/
theorem decodesRow_of_decodeOpF {bits : Word} {instr : Word → Instr} (hbits : opField bits = 0xF)
    (h : ∀ w, nnField w = nnField bits → decodeOpF w = .instr (instr w)) : DecodesRow 0xF0FF bits instr := fun w hw =>
  have ⟨hop, hnn⟩ := fields_of_mask_XF hw
  (decode_of_opField_eq_F (hop.trans hbits)).trans (h w hnn)

/-- Layout `XF` as the table writes it: the bits its row fixes, and x shifted to its place (30_encoding.md R87). -/
theorem layoutXB_eq_or (op : BitVec 4) (x : RegIdx) (nn : Byte) :
    layoutXB op x nn = layoutXB op 0 nn ||| (x.setWidth 16 <<< 8) := by
  unfold layoutXB
  apply BitVec.eq_of_getLsbD_eq
  intro k hk
  simp only [BitVec.getLsbD_append, BitVec.getLsbD_or, BitVec.getLsbD_shiftLeft, BitVec.getLsbD_setWidth]
  interval_cases k <;> simp

end Sys2Proof

namespace Sys2Proof.Machine

/-- The glyph of a digit stands at 0x50 + 5 times its value (43_index_memory.md R154). -/
theorem toNat_glyphAddress (b : Byte) : (glyphAddress b).toNat = 0x50 + 5 * (b.toNat % 16) := by
  have hlow : ((b &&& 0xF).setWidth 16 : Word).toNat = b.toNat % 16 :=
    (BitVec.toNat_setWidth_of_le (by decide)).trans (Nat.and_two_pow_sub_one_eq_mod b.toNat 4)
  rw [glyphAddress, BitVec.toNat_add, BitVec.toNat_mul, hlow]
  change (0x50 + 5 * (b.toNat % 16) % 65536) % 65536 = _
  omega

variable (s : State) (x : RegIdx)

/-- Loading I changes I and nothing else (10_state.md R26). -/
theorem State.writeI_frame (w : Word) : s.writeI w = { s with i := (s.writeI w).i } ∧ SameBytes s (s.writeI w) :=
  ⟨rfl, fun _ => rfl⟩

/-! FX1E (43_index_memory.md R152). -/

theorem exec_addI_of_fits (h : s.i.toNat + (s.readV x).toNat ≤ 0xFFFF) :
    exec (.addI x) s = .next (s.writeI (s.i + (s.readV x).setWidth 16)) :=
  if_neg (Nat.not_lt.mpr h)

theorem exec_addI_of_overflows (h : 0xFFFF < s.i.toNat + (s.readV x).toNat) :
    exec (.addI x) s = .next (s.raiseFor (.addI x) .indexOverflow none) :=
  if_pos h

/-! The bounds check of the bytes I..I+n (43_index_memory.md R153). -/

/-- The lowest offending address of a range from I that leaves memory (60_exceptions.md R171). -/
def State.offendingAddress : Word := BitVec.ofNat 16 (max s.i.toNat 0x1000)

theorem State.checkI_of_fits {n : Nat} (h : s.i.toNat + n ≤ 0xFFF) : s.checkI (n + 1) = none :=
  checkRange_eq_none (.inr h)

theorem State.checkI_of_leavesMemory {n : Nat} (h : 0xFFF < s.i.toNat + n) :
    s.checkI (n + 1) = some s.offendingAddress :=
  checkRange_eq_some n.succ_pos h

/-! FX33 (43_index_memory.md R157). -/

theorem toNat_bcdHundreds (b : Byte) : (bcdHundreds b).toNat = b.toNat / 100 := BitVec.toNat_udiv

theorem toNat_bcdTens (b : Byte) : (bcdTens b).toNat = b.toNat / 10 % 10 := by
  rw [bcdTens, BitVec.toNat_umod, BitVec.toNat_udiv]
  rfl

theorem toNat_bcdUnits (b : Byte) : (bcdUnits b).toNat = b.toNat % 10 := BitVec.toNat_umod

/-- The state in which the three digits of a byte stand from I on. -/
def State.storeDigits (b : Byte) : State :=
  ((s.memWrite s.i.toNat (bcdHundreds b)).memWrite (s.i.toNat + 1) (bcdTens b)).memWrite (s.i.toNat + 2) (bcdUnits b)

/-- What memory reads as after three digits are stored inside it. -/
theorem State.byteAt_storeDigits (h : s.i.toNat + 2 ≤ 0xFFF) (b : Byte) (c : Nat) :
    (s.storeDigits b).byteAt c =
      if c = s.i.toNat + 2 then bcdUnits b
      else if c = s.i.toNat + 1 then bcdTens b
      else if c = s.i.toNat then bcdHundreds b
      else s.byteAt c := by
  rw [storeDigits, byteAt_memWrite _ h, byteAt_memWrite _ (by omega), byteAt_memWrite _ (by omega)]

theorem exec_ldB_of_fits (h : s.i.toNat + 2 ≤ 0xFFF) :
    exec (.ldB x) s = .next (s.storeDigits (s.readV x)) := by
  simp only [exec, execLdB, s.checkI_of_fits h, State.storeDigits]

theorem exec_ldB_of_leavesMemory (h : 0xFFF < s.i.toNat + 2) :
    exec (.ldB x) s = .next (s.raiseFor (.ldB x) .memoryOutOfBounds (some s.offendingAddress)) := by
  simp only [exec, execLdB, s.checkI_of_leavesMemory h]

/-! FX55 and FX65 (43_index_memory.md R155, R156). -/

@[simp] theorem State.byteAt_incrementI (len c : Nat) : (s.incrementI len).byteAt c = s.byteAt c := by
  rw [incrementI_eq]
  rfl

@[simp] theorem State.readV_incrementI (len : Nat) (r : RegIdx) : (s.incrementI len).readV r = s.readV r := by
  rw [incrementI_eq]
  rfl

/-- After a transfer that kept I and the configuration, I advances without wrapping past the bytes of a range that lies
in memory. -/
theorem State.toNat_incrementI_i {s t : State} {n : Nat} (hi : t.i = s.i) (hcfg : t.cfg = s.cfg)
    (h : s.i.toNat + n ≤ 0xFFF) :
    (t.incrementI (n + 1)).i.toNat = if s.cfg.memoryIncrementsI = true then s.i.toNat + n + 1 else s.i.toNat := by
  rw [incrementI_eq, hi, hcfg]
  dsimp only
  split
  · rw [BitVec.toNat_add, BitVec.toNat_ofNat]
    omega
  · rfl

/-- The state FX55 answers when its bytes lie in memory. -/
def State.storeRegs : State := (s.storeBlock s.i.toNat (x.toNat + 1)).incrementI (x.toNat + 1)

/-- The state FX65 answers when its bytes lie in memory. -/
def State.loadRegs : State := (s.loadBlock s.i.toNat (x.toNat + 1)).incrementI (x.toNat + 1)

theorem exec_storeRegs_of_fits (h : s.i.toNat + x.toNat ≤ 0xFFF) :
    exec (.storeRegs x) s = .next (s.storeRegs x) := by
  simp only [exec, execStoreRegs, s.checkI_of_fits h, State.storeRegs]

theorem exec_storeRegs_of_leavesMemory (h : 0xFFF < s.i.toNat + x.toNat) :
    exec (.storeRegs x) s = .next (s.raiseFor (.storeRegs x) .memoryOutOfBounds (some s.offendingAddress)) := by
  simp only [exec, execStoreRegs, s.checkI_of_leavesMemory h]

theorem exec_loadRegs_of_fits (h : s.i.toNat + x.toNat ≤ 0xFFF) :
    exec (.loadRegs x) s = .next (s.loadRegs x) := by
  simp only [exec, execLoadRegs, s.checkI_of_fits h, State.loadRegs]

theorem exec_loadRegs_of_leavesMemory (h : 0xFFF < s.i.toNat + x.toNat) :
    exec (.loadRegs x) s = .next (s.raiseFor (.loadRegs x) .memoryOutOfBounds (some s.offendingAddress)) := by
  simp only [exec, execLoadRegs, s.checkI_of_leavesMemory h]

/-- A store of registers writes memory and I, nothing else. -/
theorem State.storeRegs_eq : s.storeRegs x = { s with mem := (s.storeRegs x).mem, i := (s.storeRegs x).i } := by
  rw [storeRegs, incrementI_eq, storeBlock_eq]

/-- A load of registers writes registers and I, nothing else. -/
theorem State.loadRegs_eq : s.loadRegs x = { s with v := (s.loadRegs x).v, i := (s.loadRegs x).i } := by
  rw [loadRegs, incrementI_eq, loadBlock_eq]

theorem State.byteAt_storeRegs (h : s.i.toNat + x.toNat ≤ 0xFFF) (c : Nat) :
    (s.storeRegs x).byteAt c =
      if s.i.toNat ≤ c ∧ c ≤ s.i.toNat + x.toNat then s.readV (BitVec.ofNat 4 (c - s.i.toNat)) else s.byteAt c := by
  rw [storeRegs, byteAt_incrementI, byteAt_storeBlock _ _ (by omega)]
  simp only [← Nat.add_assoc, Nat.lt_succ_iff]

theorem State.readV_loadRegs (r : RegIdx) :
    (s.loadRegs x).readV r = if r.toNat ≤ x.toNat then s.byteAt (s.i.toNat + r.toNat) else s.readV r := by
  rw [loadRegs, readV_incrementI, readV_loadBlock _ _ x.isLt]
  simp only [Nat.lt_succ_iff]

theorem State.sameBytes_loadRegs : SameBytes s (s.loadRegs x) := by
  rw [loadRegs_eq]
  exact fun _ => rfl

theorem State.toNat_storeRegs_i (h : s.i.toNat + x.toNat ≤ 0xFFF) :
    (s.storeRegs x).i.toNat = if s.cfg.memoryIncrementsI = true then s.i.toNat + x.toNat + 1 else s.i.toNat :=
  toNat_incrementI_i (s.storeBlock_i _ _) (s.storeBlock_cfg _ _) h

theorem State.toNat_loadRegs_i (h : s.i.toNat + x.toNat ≤ 0xFFF) :
    (s.loadRegs x).i.toNat = if s.cfg.memoryIncrementsI = true then s.i.toNat + x.toNat + 1 else s.i.toNat :=
  toNat_incrementI_i (s.loadBlock_i _ _) (s.loadBlock_cfg _ _) h

end Sys2Proof.Machine

namespace Sys2Proof.Proofs

open Machine

/-- Settles O31: the range check of I..I+2 decides between the three writes, which do not meet, and the fault. -/
theorem ldBStoresDecimalDigits : Obligations.LdBStoresDecimalDigits := by
  refine ⟨decodesRow_of_decodeOpF rfl fun w hnn => ?decodes, fun x s => ⟨fun hfits => ?stores, fun hout => ?raises⟩⟩
  case decodes => simp only [decodeOpF, hnn]; rfl
  case stores =>
    have hread := s.byteAt_storeDigits hfits (s.readV x)
    refine ⟨_, exec_ldB_of_fits s x hfits, ?hundreds, ?tens, ?units, ?kept, rfl⟩
    case hundreds => rw [hread, if_neg (by omega), if_neg (by omega), if_pos rfl, toNat_bcdHundreds]
    case tens => rw [hread, if_neg (by omega), if_pos rfl, toNat_bcdTens]
    case units => rw [hread, if_pos rfl, toNat_bcdUnits]
    case kept =>
      intro a ha
      rw [hread, if_neg (by omega), if_neg (by omega), if_neg (by omega)]
  case raises =>
    have hword : encode (.ldB x) = 0xF033 ||| (x.setWidth 16 <<< 8) := layoutXB_eq_or 0xF x 0x33
    exact ⟨_, exec_ldB_of_leavesMemory s x hout, s.faultRaised_raiseFor hword _ _⟩

/-- Settles O32: the range check of I..I+x decides between the block store with its advance of I and the fault. -/
theorem storeRegsStoresBlock : Obligations.StoreRegsStoresBlock := by
  refine ⟨decodesRow_of_decodeOpF rfl fun w hnn => ?decodes, fun x s => ⟨fun hfits => ?stores, fun hout => ?raises⟩⟩
  case decodes => simp only [decodeOpF, hnn]; rfl
  case stores =>
    have hread := s.byteAt_storeRegs x hfits
    refine ⟨_, exec_storeRegs_of_fits s x hfits, fun r hr => ?stored, fun a ha => ?kept, s.toNat_storeRegs_i x hfits,
      s.storeRegs_eq x⟩
    case stored =>
      rw [hread, if_pos (by omega), Nat.add_sub_cancel_left, BitVec.ofNat_toNat, BitVec.setWidth_eq]
    case kept => rw [hread, if_neg (by omega)]
  case raises =>
    have hword : encode (.storeRegs x) = 0xF055 ||| (x.setWidth 16 <<< 8) := layoutXB_eq_or 0xF x 0x55
    exact ⟨_, exec_storeRegs_of_leavesMemory s x hout, s.faultRaised_raiseFor hword _ _⟩

/-- Settles O33: the range check of I..I+x decides between the block load with its advance of I and the fault. -/
theorem loadRegsLoadsBlock : Obligations.LoadRegsLoadsBlock := by
  refine ⟨decodesRow_of_decodeOpF rfl fun w hnn => ?decodes, fun x s => ⟨fun hfits => ?loads, fun hout => ?raises⟩⟩
  case decodes => simp only [decodeOpF, hnn]; rfl
  case loads =>
    refine ⟨_, exec_loadRegs_of_fits s x hfits, fun r hr => ?loaded, fun r hr => ?kept, s.toNat_loadRegs_i x hfits,
      s.loadRegs_eq x, s.sameBytes_loadRegs x⟩
    case loaded => rw [State.readV_loadRegs, if_pos hr]
    case kept => rw [State.readV_loadRegs, if_neg (by omega)]
  case raises =>
    have hword : encode (.loadRegs x) = 0xF065 ||| (x.setWidth 16 <<< 8) := layoutXB_eq_or 0xF x 0x65
    exact ⟨_, exec_loadRegs_of_leavesMemory s x hout, s.faultRaised_raiseFor hword _ _⟩

/-- Settles O28: LD loads I with nnn, which 16 bits hold. -/
theorem ldILoads : Obligations.LdILoads := by
  refine ⟨decodesRow_of_opField fun w hop => ?_, fun nnn s => ⟨_, rfl, ?_, s.writeI_frame _⟩⟩
  · simp only [decode, hop]; rfl
  · exact BitVec.toNat_setWidth_of_le (by decide)

/-- Settles O29: whether the exact sum fits in 16 bits decides between the load of I, which then does not wrap, and the
fault. -/
theorem addIAddsOrOverflows : Obligations.AddIAddsOrOverflows := by
  refine ⟨decodesRow_of_decodeOpF rfl fun w hnn => ?decodes, fun x s => ⟨fun hfits => ?adds, fun hover => ?raises⟩⟩
  case decodes => simp only [decodeOpF, hnn]; rfl
  case adds =>
    refine ⟨_, exec_addI_of_fits s x hfits, ?_, s.writeI_frame _⟩
    rw [State.writeI_i, BitVec.toNat_add, BitVec.toNat_setWidth_of_le (by decide)]
    exact Nat.mod_eq_of_lt (Nat.lt_succ_of_le hfits)
  case raises =>
    have hword : encode (.addI x) = 0xF01E ||| (x.setWidth 16 <<< 8) := layoutXB_eq_or 0xF x 0x1E
    exact ⟨_, exec_addI_of_overflows s x hover, s.faultRaised_raiseFor hword _ _⟩

/-- Settles O30: LD F loads I with the glyph address. -/
theorem ldFPointsAtGlyph : Obligations.LdFPointsAtGlyph := by
  refine ⟨decodesRow_of_decodeOpF rfl fun w hnn => ?_,
    fun x s => ⟨_, rfl, toNat_glyphAddress (s.readV x), s.writeI_frame _⟩⟩
  simp only [decodeOpF, hnn]; rfl

end Sys2Proof.Proofs
end

section
/-! PROOFS. The key skips and the delay timer (44_keypad_timer.md R160 to R162, R164, R165). -/

namespace Sys2Proof

/-- With opcode nibble 0xE the low byte selects the instruction (30_encoding.md R89). -/
theorem decode_of_opField_eq_E {w : Word} (h : opField w = 0xE) : decode w = decodeOpE w := by
  simp only [decode, h]
  rfl

/-- A row of the EX group is decoded by its low byte (30_encoding.md R89). -/
theorem decodesRow_of_decodeOpE {bits : Word} {instr : Word → Instr} (hbits : opField bits = 0xE)
    (h : ∀ w, nnField w = nnField bits → decodeOpE w = .instr (instr w)) : DecodesRow 0xF0FF bits instr := fun w hw =>
  have ⟨hop, hnn⟩ := fields_of_mask_XF hw
  (decode_of_opField_eq_E (hop.trans hbits)).trans (h w hnn)

end Sys2Proof

namespace Sys2Proof.Machine

variable (s : State)

/-- A key is held when it is one of the sixteen and its bit is set (44_keypad_timer.md R160, decision D17). -/
theorem State.held_eq_true_iff (k : Byte) : s.held k = true ↔ k.toNat < 16 ∧ s.keys.getLsbD k.toNat = true := by
  rw [held, Bool.if_false_right, Bool.and_eq_true, decide_eq_true_eq, Nat.lt_succ_iff]

theorem State.skipIf_held (k : Byte) :
    s.skipIf (s.held k) =
      if k.toNat < 16 ∧ s.keys.getLsbD k.toNat = true then { s with skip := true } else s := by
  simp only [skipIf_eq, held_eq_true_iff]

theorem State.skipIf_not_held (k : Byte) :
    s.skipIf (!s.held k) =
      if k.toNat < 16 ∧ s.keys.getLsbD k.toNat = true then s else { s with skip := true } := by
  simp only [skipIf_eq, Bool.not_eq_true', ← Bool.not_eq_true, held_eq_true_iff, ite_not]

/-- Writing the delay timer changes DT and nothing else (10_state.md R32). -/
theorem State.writeDT_frame (b : Byte) :
    s.writeDT b = { s with dt := (s.writeDT b).dt } ∧ SameBytes s (s.writeDT b) :=
  ⟨rfl, fun _ => rfl⟩

end Sys2Proof.Machine

namespace Sys2Proof.Proofs

open Machine

/-- Settles O36: each key skip is the skip primitive on whether key V[x] is held, or on its negation. -/
theorem keySkipsTestHeldKey : Obligations.KeySkipsTestHeldKey := by
  refine ⟨decodesRow_of_decodeOpE rfl fun w hnn => ?skp, decodesRow_of_decodeOpE rfl fun w hnn => ?sknp,
    fun x s => ?executes⟩
  case skp | sknp => simp only [decodeOpE, hnn]; rfl
  case executes =>
    have hskp := s.skipIf_held (s.readV x)
    have hsknp := s.skipIf_not_held (s.readV x)
    refine ⟨fun hheld => ?held, fun hnot => ?notHeld⟩
    case held => exact ⟨congrArg _ (hskp.trans (if_pos hheld)), congrArg _ (hsknp.trans (if_pos hheld))⟩
    case notHeld => exact ⟨congrArg _ (hskp.trans (if_neg hnot)), congrArg _ (hsknp.trans (if_neg hnot))⟩

/-- Settles O38: FX07 is a register write of DT, FX15 a timer write of V[x]. -/
theorem delayTimerReadWrite : Obligations.DelayTimerReadWrite := by
  refine ⟨decodesRow_of_decodeOpF rfl fun w hnn => ?reads, decodesRow_of_decodeOpF rfl fun w hnn => ?writes,
    fun x s => ⟨⟨_, rfl, ?fromTimer, s.onlyRegsChange_writeV x s.dt⟩, ⟨_, rfl, ?toTimer, s.writeDT_frame _⟩⟩⟩
  case reads | writes => simp only [decodeOpF, hnn]; rfl
  case fromTimer => exact s.readV_writeV_same x s.dt
  case toTimer => exact s.writeDT_dt (s.readV x)

end Sys2Proof.Proofs
end

section
/-! PROOFS. An instruction's word is the word it was decoded from (30_encoding.md R95), and precise faults
(60_exceptions.md R172). -/

namespace Sys2Proof

variable {w : Word} {i : Instr}

theorem layoutA_of_opField {op : BitVec 4} (hop : opField w = op) : layoutA op (nnnField w) = w :=
  hop ▸ layoutA_fields w

theorem layoutXB_of_opField {op : BitVec 4} (hop : opField w = op) : layoutXB op (xField w) (nnField w) = w :=
  hop ▸ layoutXB_fields w

theorem layoutXB_of_fields {op : BitVec 4} {nn : Byte} (hop : opField w = op) (hnn : nnField w = nn) :
    layoutXB op (xField w) nn = w :=
  hnn ▸ layoutXB_of_opField hop

theorem layoutXYN_of_fields {op : BitVec 4} {n : Nibble} (hop : opField w = op) (hn : nField w = n) :
    layoutXYN op (xField w) (yField w) n = w :=
  hop ▸ hn ▸ layoutXYN_fields w

theorem encode_of_decodeOp0 (hop : opField w = 0x0) (h : decodeOp0 w = .instr i) : encode i = w := by
  unfold decodeOp0 at h
  split_ifs at h with hcls hret <;> cases h
  · exact hcls.symm
  · exact hret.symm
  · exact layoutA_of_opField hop

theorem encode_of_decodeOp8 (hop : opField w = 0x8) (h : decodeOp8 w = .instr i) : encode i = w := by
  unfold decodeOp8 at h
  split at h <;> cases h
  all_goals next hn => exact layoutXYN_of_fields hop (BitVec.eq_of_toNat_eq hn)

theorem encode_of_decodeOpE (hop : opField w = 0xE) (h : decodeOpE w = .instr i) : encode i = w := by
  unfold decodeOpE at h
  split at h <;> cases h
  all_goals next hnn => exact layoutXB_of_fields hop (BitVec.eq_of_toNat_eq hnn)

theorem encode_of_decodeOpF (hop : opField w = 0xF) (h : decodeOpF w = .instr i) : encode i = w := by
  unfold decodeOpF at h
  split at h <;> cases h
  all_goals next hnn => exact layoutXB_of_fields hop (BitVec.eq_of_toNat_eq hnn)

/-- No two words decode to one instruction: encoding gives the word back (30_encoding.md R95). The cases are the rows
of the table of R89. -/
theorem encode_of_decode (h : decode w = .instr i) : encode i = w := by
  unfold decode at h
  split at h
  case h_1 hop => exact encode_of_decodeOp0 (BitVec.eq_of_toNat_eq hop) h
  case h_2 hop | h_3 hop | h_11 hop | h_12 hop => cases h; exact layoutA_of_opField (BitVec.eq_of_toNat_eq hop)
  case h_4 hop | h_5 hop | h_7 hop | h_8 hop | h_13 hop =>
    cases h; exact layoutXB_of_opField (BitVec.eq_of_toNat_eq hop)
  case h_6 hop | h_10 hop =>
    split at h <;> cases h
    next hn => exact layoutXYN_of_fields (BitVec.eq_of_toNat_eq hop) hn
  case h_9 hop => exact encode_of_decodeOp8 (BitVec.eq_of_toNat_eq hop) h
  case h_14 hop => cases h; exact layoutXYN_of_fields (BitVec.eq_of_toNat_eq hop) rfl
  case h_15 hop => exact encode_of_decodeOpE (BitVec.eq_of_toNat_eq hop) h
  case h_16 =>
    have hlt := (opField w).isLt
    have hop : (opField w).toNat = 15 := by
      simp only [imp_false] at *
      omega
    exact encode_of_decodeOpF (BitVec.eq_of_toNat_eq hop) h

end Sys2Proof

namespace Sys2Proof.Machine

/-- Step 5 of the cycle leaves the status (10_state.md R22). -/
@[simp] theorem State.endCycle_status (s : State) : s.endCycle.status = s.status := by
  rw [endCycle_eq]
  split <;> rfl

/-- The lowest offending address lies past the end of memory (43_index_memory.md R153). -/
theorem le_toNat_offendingAddress (s : State) : 0x1000 ≤ s.offendingAddress.toNat := by
  rw [State.offendingAddress, BitVec.toNat_ofNat, Nat.mod_eq_of_lt (by omega)]
  exact Nat.le_max_right _ _

variable {i : Instr} {s : State} {k : FaultKind} {o : Option Word}

/-- An instruction raises no fault of the fetch. -/
theorem RaisesFault.kind_ne_fetchOutOfBounds (h : RaisesFault i s k o) : k ≠ .fetchOutOfBounds := by
  cases i
  case sys | ret | call | addI | drw | ldB | storeRegs | loadRegs => rw [h.1]; nofun
  all_goals exact h.elim

/-- The record of an instruction's fault has the columns of its kind: the word always, an address exactly when an access
left memory (60_exceptions.md R171). -/
theorem RaisesFault.recordColumns (h : RaisesFault i s k o) (w a : Word) : recordColumns ⟨k, some w, a, o⟩ := by
  refine ⟨iff_of_false nofun h.kind_ne_fetchOutOfBounds, ?_⟩
  cases i
  case sys | ret | call | addI =>
    obtain ⟨rfl, rfl, -⟩ := h
    exact ⟨iff_of_true rfl nofun, nofun⟩
  case drw | ldB | storeRegs | loadRegs =>
    obtain ⟨rfl, rfl, -⟩ := h
    refine ⟨iff_of_false nofun (fun hne => hne rfl), ?_⟩
    rintro _ ⟨⟩
    exact le_toNat_offendingAddress s
  all_goals exact h.elim

end Sys2Proof.Machine

namespace Sys2Proof.Proofs

open Machine

/-- Settles O47: a turn that faults does so at the fetch, at the decode or by the instruction's own fault, and each of
the three changes only the status past its drain and advance; the recorded word `encode i` is the fetched one. -/
theorem faultsArePrecise : Obligations.FaultsArePrecise := by
  intro s t rest r hturn hstep hhalt
  obtain ⟨-, rfl⟩ | ⟨-, -, rfl⟩ | ⟨-, i, hdec, ⟨k, o, hraise, rfl⟩ | ⟨u, -, hcompletes, rfl⟩⟩ :=
    enginesTurn_cases hturn hstep
  · cases hhalt
    exact ⟨rfl, rfl, fun _ => ⟨rfl, rfl⟩, fun hne => absurd rfl hne,
      ⟨iff_of_true rfl rfl, iff_of_true rfl nofun, nofun⟩, fun _ => rfl⟩
  · cases hhalt
    exact ⟨rfl, rfl, nofun, fun _ => ⟨rfl, rfl⟩,
      ⟨iff_of_false nofun nofun, iff_of_true rfl nofun, nofun⟩, fun _ => rfl⟩
  · cases hhalt
    have hword : encode i = s.fetchWord := encode_of_decode hdec
    exact ⟨rfl, BitVec.add_sub_cancel _ _, fun hfetch => absurd hfetch hraise.kind_ne_fetchOutOfBounds,
      fun _ => ⟨rfl, congrArg some hword⟩, hraise.recordColumns _ _, fun _ => rfl⟩
  · rw [State.endCycle_status, hcompletes.status] at hhalt
    cases hturn.1.symm.trans hhalt

end Sys2Proof.Proofs
end

section
/-! PROOFS. Decoder and encoder invert each other, and the words that are no instruction (30_encoding.md R85 to R95). -/

namespace Sys2Proof

variable (w : Word)

/-! The fields of a word as shifts and masks of it (30_encoding.md R86). -/

theorem shiftRight_12_eq_iff (u : Word) : w >>> 12 = u ↔ (opField w).toNat = u.toNat := by
  have hw := w.isLt
  rw [← BitVec.toNat_inj, BitVec.toNat_ushiftRight, opField, BitVec.extractLsb'_toNat, Nat.shiftRight_eq_div_pow,
    Nat.mod_eq_of_lt (by omega)]

theorem and_0xF_eq_iff (u : Word) : w &&& 0xF = u ↔ (nField w).toNat = u.toNat := by
  rw [← BitVec.toNat_inj, nField, BitVec.extractLsb'_toNat, Nat.shiftRight_zero, BitVec.toNat_and,
    ← Nat.and_two_pow_sub_one_eq_mod]
  rfl

theorem and_0xFF_eq_iff (u : Word) : w &&& 0xFF = u ↔ (nnField w).toNat = u.toNat := by
  rw [← BitVec.toNat_inj, nnField, BitVec.extractLsb'_toNat, Nat.shiftRight_zero, BitVec.toNat_and,
    ← Nat.and_two_pow_sub_one_eq_mod]
  rfl

/-- The well-formedness of SYS, said of its word (30_encoding.md R90). -/
theorem wellFormed_sys_iff (nnn : Addr) :
    (Instr.sys nnn).wellFormed = true ↔ encode (.sys nnn) ≠ 0x00E0 ∧ encode (.sys nnn) ≠ 0x00EE := by
  have hinj (a : Addr) : encode (.sys nnn) = layoutA 0x0 a ↔ nnn = a :=
    ⟨fun h => by simpa [encode] using congrArg nnnField h, fun h => h ▸ rfl⟩
  rw [show (0x00E0 : Word) = layoutA 0x0 0x0E0 from rfl, show (0x00EE : Word) = layoutA 0x0 0x0EE from rfl, ne_eq, hinj,
    ne_eq, hinj]
  simp only [Instr.wellFormed, Bool.and_eq_true, bne_iff_ne, ne_eq]

/-- Decoding reads back every field that the encoder's layout wrote; SYS also needs its word to be neither CLS's nor
RET's (30_encoding.md R89, R95). -/
theorem decode_encode {i : Instr} (h : i.wellFormed = true) : decode (encode i) = .instr i := by
  cases i
  case cls | ret => rfl
  case sys nnn =>
    obtain ⟨hcls, hret⟩ := (wellFormed_sys_iff nnn).mp h
    have hop : opField (encode (.sys nnn)) = 0x0 := opField_layoutA 0x0 nnn
    have hlt := (opField_toNat_eq_zero_iff _).mp (congrArg BitVec.toNat hop)
    exact (decode_of_lt hlt).trans ((decodeOp0_eq_sys_iff _ nnn).mpr ⟨hcls, hret, nnnField_layoutA 0x0 nnn⟩)
  case jp | call | ldI | jpV0 => simp only [encode, decode, opField_layoutA, nnnField_layoutA]; rfl
  case seImm | sneImm | ldImm | addImm | rnd =>
    simp only [encode, decode, opField_layoutXB, xField_layoutXB, nnField_layoutXB]; rfl
  case seReg | sneReg | drw =>
    simp only [encode, decode, opField_layoutXYN, xField_layoutXYN, yField_layoutXYN, nField_layoutXYN]; rfl
  case ldReg | orReg | andReg | xorReg | addReg | subReg | shr | subn | shl =>
    refine (decode_of_opField_eq_8 (opField_layoutXYN _ _ _ _)).trans ?_
    simp only [decodeOp8, xField_layoutXYN, yField_layoutXYN, nField_layoutXYN]; rfl
  case skp | sknp =>
    refine (decode_of_opField_eq_E (opField_layoutXB _ _ _)).trans ?_
    simp only [decodeOpE, xField_layoutXB, nnField_layoutXB]; rfl
  case ldVxDT | ldVxK | ldDTVx | ldSTVx | addI | ldF | ldB | storeRegs | loadRegs =>
    refine (decode_of_opField_eq_F (opField_layoutXB _ _ _)).trans ?_
    simp only [decodeOpF, xField_layoutXB, nnField_layoutXB]; rfl

/-- Only a well-formed instruction is decoded: the words of CLS and RET are never SYS (30_encoding.md R90). -/
theorem wellFormed_of_decode {w : Word} {i : Instr} (h : decode w = .instr i) : i.wellFormed = true := by
  cases i
  case sys nnn =>
    obtain ⟨-, hop0⟩ := (decode_eq_iff_of_isOp0 w rfl).mp h
    obtain ⟨hcls, hret, -⟩ := (decodeOp0_eq_sys_iff w nnn).mp hop0
    exact (wellFormed_sys_iff nnn).mpr (encode_of_decode h ▸ ⟨hcls, hret⟩)
  all_goals rfl

/-! The words of each group that are no instruction (30_encoding.md R92). -/

theorem decodeOp0_ne_unsupported (u : Word) : decodeOp0 w ≠ .unsupported u := by
  unfold decodeOp0
  split_ifs <;> nofun

theorem decodeOp8_eq_unsupported_iff :
    decodeOp8 w = .unsupported w ↔ (nField w).toNat ∈ [0x8, 0x9, 0xA, 0xB, 0xC, 0xD, 0xF] := by
  have hlt := (nField w).isLt
  unfold decodeOp8
  split
  case h_10 => simp only [List.mem_cons, List.not_mem_nil, true_iff, imp_false] at *; omega
  all_goals next hn => exact iff_of_false nofun (by rw [hn]; decide)

theorem decodeOpE_eq_unsupported_iff : decodeOpE w = .unsupported w ↔ (nnField w).toNat ∉ [0x9E, 0xA1] := by
  unfold decodeOpE
  split
  case h_3 => simp_all
  all_goals next hnn => exact iff_of_false nofun (by rw [hnn]; decide)

theorem decodeOpF_eq_unsupported_iff :
    decodeOpF w = .unsupported w ↔
      (nnField w).toNat ∉ [0x07, 0x0A, 0x15, 0x18, 0x1E, 0x29, 0x33, 0x55, 0x65] := by
  unfold decodeOpF
  split
  case h_10 => simp_all
  all_goals next hnn => exact iff_of_false nofun (by rw [hnn]; decide)

/-- The words that are no instruction, group by group (30_encoding.md R92). -/
theorem decode_eq_unsupported_iff :
    decode w = .unsupported w ↔
      (((opField w).toNat = 0x5 ∨ (opField w).toNat = 0x9) ∧ (nField w).toNat ≠ 0x0)
      ∨ ((opField w).toNat = 0x8 ∧ (nField w).toNat ∈ [0x8, 0x9, 0xA, 0xB, 0xC, 0xD, 0xF])
      ∨ ((opField w).toNat = 0xE ∧ (nnField w).toNat ∉ [0x9E, 0xA1])
      ∨ ((opField w).toNat = 0xF
          ∧ (nnField w).toNat ∉ [0x07, 0x0A, 0x15, 0x18, 0x1E, 0x29, 0x33, 0x55, 0x65]) := by
  unfold decode
  split
  case h_1 hop => simp [hop, decodeOp0_ne_unsupported]
  case h_9 hop => simp [hop, decodeOp8_eq_unsupported_iff]
  case h_15 hop => simp [hop, decodeOpE_eq_unsupported_iff]
  case h_6 hop | h_10 hop =>
    split
    next hn => simp [hop, hn]
    next hn => simpa [hop] using fun h => hn (BitVec.eq_of_toNat_eq h)
  case h_16 =>
    have hlt := (opField w).isLt
    have hop : (opField w).toNat = 15 := by
      simp only [imp_false] at *
      omega
    simp [hop, decodeOpF_eq_unsupported_iff]
  all_goals next hop => simp [hop]

/-- An undecoded word is kept (30_encoding.md R85). -/
theorem eq_of_decode_eq_unsupported {w u : Word} (h : decode w = .unsupported u) : u = w := by
  unfold decode at h
  split at h
  case h_1 => exact absurd h (decodeOp0_ne_unsupported w u)
  case h_6 | h_10 =>
    split at h <;> cases h
    rfl
  case h_9 | h_15 | h_16 =>
    simp only [decodeOp8, decodeOpE, decodeOpF] at h
    split at h <;> cases h
    rfl
  all_goals cases h

end Sys2Proof

namespace Sys2Proof.Proofs

/-- Settles O1: decoding reads back the fields that the encoder's layouts wrote. -/
theorem decodeOfEncode : Obligations.DecodeOfEncode :=
  fun _ => decode_encode

/-- Settles O2: encoding the fields that the decoder read gives the word back. -/
theorem encodeOfDecode : Obligations.EncodeOfDecode :=
  fun _ _ h => ⟨wellFormed_of_decode h, encode_of_decode h⟩

/-- Settles O3: each row of the decoder's table leaves out the listed words, and keeps the word it leaves out. -/
theorem illegalWords : Obligations.IllegalWords := by
  refine fun w => ⟨?_, fun u => eq_of_decode_eq_unsupported⟩
  have hfields := decode_eq_unsupported_iff w
  simp only [List.mem_cons, List.not_mem_nil, or_false, ne_eq, shiftRight_12_eq_iff, and_0xF_eq_iff,
    and_0xFF_eq_iff] at hfields ⊢
  exact hfields

/-- Settles O5: twelve closed words, which the decoder reads. -/
theorem sampleWordsDecode : Obligations.SampleWordsDecode := by
  unfold Obligations.SampleWordsDecode
  decide

end Sys2Proof.Proofs
end

section
/-! PROOFS. Return, key wait and sound timer; what a store, a call or a flag writer does to the instruction after it
(41_control_flow.md R111, 42_alu.md, 43_index_memory.md R155, R156, 44_keypad_timer.md R163, R166). -/

namespace Sys2Proof.Machine

variable (s : State) (x y : RegIdx) (b : Byte)

/-! RET (41_control_flow.md R111). -/

/-- The state a RET that finds an entry answers. -/
def State.returnTop (h : 0 < s.sp.val) : State :=
  { s with pc := s.stack[s.sp.val - 1]'(by omega), sp := ⟨s.sp.val - 1, by omega⟩ }

/-- With an entry on the stack, RET pops it into pc. -/
theorem exec_ret_of_entry (h : 0 < s.sp.val) : exec .ret s = .next (s.returnTop h) := by
  simp only [exec, execRet, State.pop_eq_some s h]
  rfl

/-- On an empty stack, RET raises its fault. -/
theorem exec_ret_of_empty (h : s.sp.val = 0) : exec .ret s = .next (s.raiseFor .ret .stackUnderflow none) := by
  simp only [exec, execRet, State.pop_eq_none s h]

/-! FX0A (44_keypad_timer.md R163). -/

/-- The lowest held key: its bit is set, and no lower one is. -/
theorem State.lowestHeld_eq_some_iff {k : Nat} :
    s.lowestHeld = some k ↔ s.keys.getLsbD k = true ∧ k < 16 ∧ ∀ j, j < k → s.keys.getLsbD j = false := by
  simp [lowestHeld, List.find?_range_eq_some]

theorem exec_ldVxK_of_held {s : State} {k : Nat} (h : s.lowestHeld = some k) :
    exec (.ldVxK x) s = .next (s.writeV x (BitVec.ofNat 8 k)) := by
  simp only [exec, execLdVxK, h]

theorem exec_ldVxK_of_noneHeld {s : State} (h : s.lowestHeld = none) : exec (.ldVxK x) s = .next s.rewindPc := by
  simp only [exec, execLdVxK, h]

/-! FX18 (44_keypad_timer.md R166). -/

theorem State.tone_eq_true_iff : s.tone = true ↔ s.st ≠ 0 := bne_iff_ne

/-- Writing the sound timer changes ST and nothing else (10_state.md R32). -/
theorem State.writeST_frame : s.writeST b = { s with st := (s.writeST b).st } ∧ SameBytes s (s.writeST b) :=
  ⟨rfl, fun _ => rfl⟩

/-! What VF held is lost to a flag writer (10_state.md R25). -/

theorem State.readV_writeV_vf_of_ne {x : RegIdx} (hx : x ≠ 0xF) : (s.writeV vf b).readV x = s.readV x :=
  (s.readV_writeV vf x b).trans (if_neg hx)

/-- A second write of one register is the one that counts. -/
theorem State.writeV_writeV_same (b' : Byte) : (s.writeV x b).writeV x b' = s.writeV x b' := by
  have hv : ((s.writeV x b).writeV x b').v = (s.writeV x b').v :=
    State.v_ext fun r => by simp only [readV_writeV]; split <;> rfl
  exact congrArg (fun v => { s with v := v }) hv

theorem State.writeVFlag_writeV_vf (result : Byte) (flag : Bool) :
    (s.writeV vf b).writeVFlag x result flag = s.writeVFlag x result flag := by
  have hv : ((s.writeV vf b).writeVFlag x result flag).v = (s.writeVFlag x result flag).v :=
    State.v_ext fun r => by
      simp only [readV_writeVFlag, readV_writeV]
      split <;> rfl
  exact congrArg (fun v => { s with v := v }) hv

theorem State.readV_writeVFlag_vf_eq_zero_or_one (result : Byte) (flag : Bool) :
    (s.writeVFlag x result flag).readV 0xF = 0 ∨ (s.writeVFlag x result flag).readV 0xF = 1 := by
  rw [readV_writeVFlag_vf, flagByte_eq_zero_iff, flagByte_eq_one_iff]
  exact (Bool.eq_false_or_eq_true flag).symm

theorem State.shiftOperand_writeV_vf {x y : RegIdx} (hx : x ≠ 0xF) (hy : y ≠ 0xF) :
    (s.writeV vf b).shiftOperand x y = s.shiftOperand x y := by
  unfold shiftOperand
  rw [writeV_cfg, readV_writeV_vf_of_ne s b hx, readV_writeV_vf_of_ne s b hy]

/-- A draw reads the framebuffer and memory, no register. -/
theorem drawRows_writeV (base cx cy n : Nat) : drawRows (s.writeV x b) base cx cy n = drawRows s base cx cy n := by
  induction n with
  | zero => rfl
  | succ k ih => rw [drawRows, ih]; rfl

theorem State.drawSprite_writeV_vf {x y : RegIdx} (hx : x ≠ 0xF) (hy : y ≠ 0xF) (n : Nibble) :
    (s.writeV vf b).drawSprite x y n = s.drawSprite x y n := by
  unfold drawSprite spriteColumn spriteRow
  simp only [writeV_i, readV_writeV_vf_of_ne s b hx, readV_writeV_vf_of_ne s b hy, drawRows_writeV, writeV_writeV_same]

end Sys2Proof.Machine

namespace Sys2Proof.Proofs

open Machine

/-- Settles O11: whether the stack holds an entry decides between the pop and the fault. -/
theorem retPopsReturnAddress : Obligations.RetPopsReturnAddress := by
  refine ⟨fun w hw => ?decodes, fun s => ⟨fun hentry => ?pops, fun hempty => ?raises⟩⟩
  case decodes =>
    obtain rfl : w = 0x00EE := BitVec.and_allOnes.symm.trans hw
    rfl
  case pops => exact ⟨_, exec_ret_of_entry s hentry, rfl, rfl, rfl, fun _ => rfl⟩
  case raises => exact ⟨_, exec_ret_of_empty s hempty, s.faultRaised_raiseFor rfl _ _⟩

/-- Settles O14: the entry that CALL pushed is the one RET pops, and CALL wrote no other. -/
theorem callThenRetRestores : Obligations.CallThenRetRestores := by
  intro nnn s hroom
  refine ⟨_, exec_call_of_room s nnn hroom, fun p => ⟨_, exec_ret_of_entry _ (Nat.succ_pos _), ?pc, rfl, ?entries, rfl,
    fun _ => rfl⟩⟩
  case pc => exact Vector.getElem_set_self hroom
  case entries => exact fun k hk => Vector.getElem_set_ne hroom k.isLt (Nat.ne_of_gt hk)

/-- Settles O27: the operands are read from other registers than VF, and VF is written last. -/
theorem flagWritersOverwriteVF : Obligations.FlagWritersOverwriteVF := by
  intro x y n b s i hx hy hi hfits
  have hreadX := s.readV_writeV_vf_of_ne b hx
  have hreadY := s.readV_writeV_vf_of_ne b hy
  have hshift := s.shiftOperand_writeV_vf b hx hy
  simp only [List.mem_cons, List.not_mem_nil, or_false] at hi
  obtain rfl | rfl | rfl | rfl | rfl | rfl := hi
  pick_goal 6
  · have hfits := hfits x y n rfl
    exact ⟨_, exec_drw_of_fits x y hfits, s.drawSprite_writeV_vf b hx hy n ▸ exec_drw_of_fits x y hfits,
      s.drawSprite_vf_eq_zero_or_one x y n⟩
  all_goals
    refine ⟨_, rfl, ?_, s.readV_writeVFlag_vf_eq_zero_or_one x _ _⟩
    simp only [exec, execAddReg, execSubReg, execShr, execSubn, execShl, hreadX, hreadY, hshift,
      State.writeVFlag_writeV_vf]

/-- Settles O34: the load reads the bytes that the store wrote for V0..Vx. -/
theorem storeThenLoadRestoresRegs : Obligations.StoreThenLoadRestoresRegs := by
  intro x s v hfits
  refine ⟨_, exec_storeRegs_of_fits s x hfits, _, exec_loadRegs_of_fits _ x hfits, fun r hr => ?_,
    State.sameBytes_loadRegs _ x⟩
  have hstored : (s.storeRegs x).byteAt (s.i.toNat + r.toNat) = s.readV r := by
    rw [s.byteAt_storeRegs x hfits, if_pos (by omega), Nat.add_sub_cancel_left, BitVec.ofNat_toNat, BitVec.setWidth_eq]
  rw [State.readV_loadRegs, if_pos hr]
  exact hstored

/-- Settles O37: FX0A writes the number of the lowest held key, and the mask is empty exactly when no key is held. -/
theorem keyWaitTakesLowestKey : Obligations.KeyWaitTakesLowestKey := by
  refine ⟨decodesRow_of_decodeOpF rfl fun w hnn => ?decodes, fun x s => ⟨fun hkeys => ?takes, fun hkeys => ?waits⟩⟩
  case decodes => simp only [decodeOpF, hnn]; rfl
  case takes =>
    obtain ⟨k, hk⟩ := Option.ne_none_iff_exists'.mp (mt s.lowestHeld_eq_none.mp hkeys)
    obtain ⟨hheld, hlt, hlower⟩ := s.lowestHeld_eq_some_iff.mp hk
    have hread : ((s.writeV x (BitVec.ofNat 8 k)).readV x).toNat = k := by
      rw [State.readV_writeV_same, BitVec.toNat_ofNat, Nat.mod_eq_of_lt (by omega)]
    exact ⟨_, exec_ldVxK_of_held x hk, hread.symm ▸ hlt, hread.symm ▸ hheld, hread.symm ▸ hlower,
      s.onlyRegsChange_writeV x _⟩
  case waits => exact exec_ldVxK_of_noneHeld x (s.lowestHeld_eq_none.mpr hkeys)

/-- Settles O39: LD is the write of V[x] to ST, and the tone is on while ST is not 0. -/
theorem soundTimerWriteSetsTone : Obligations.SoundTimerWriteSetsTone := by
  refine ⟨decodesRow_of_decodeOpF rfl fun w hnn => ?_,
    fun x s => ⟨_, rfl, rfl, State.tone_eq_true_iff _, s.writeST_frame _⟩⟩
  simp only [decodeOpF, hnn]; rfl

end Sys2Proof.Proofs
end

section
/-! PROOFS. Which fields an instruction writes (10_state.md R20 to R41). -/

namespace Sys2Proof.Machine

variable (s : State) (x : RegIdx)

theorem State.eq_of_readV_writeV_ne {b : Byte} {r : RegIdx} (h : (s.writeV x b).readV r ≠ s.readV r) : r = x := by
  by_contra hne
  exact h ((s.readV_writeV x r b).trans (if_neg hne))

theorem State.eq_of_readV_writeVFlag_ne {b : Byte} {c : Bool} {r : RegIdx}
    (h : (s.writeVFlag x b c).readV r ≠ s.readV r) : r = x ∨ r = 0xF := by
  by_contra hne
  obtain ⟨hx, hvf⟩ := not_or.mp hne
  exact h (by rw [readV_writeVFlag, if_neg hvf, if_neg hx])

/-- Each field that differs in `t` from `s` is one that `i` writes, as `Obligations.EveryFieldHasItsWriters` lists them.
A field that is not given is one that stands as it was. -/
structure OnlyWritersWrite (i : Instr) (s t : State) : Prop where
  registers : ∀ r, t.readV r ≠ s.readV r → writesReg i r := by exact fun _ h => absurd rfl h
  index : t.i ≠ s.i → (∃ nnn, i = .ldI nnn) ∨ (∃ x, i = .addI x ∨ i = .ldF x)
    ∨ (s.cfg.memoryIncrementsI = true ∧ ∃ x, i = .storeRegs x ∨ i = .loadRegs x) := by exact fun h => absurd rfl h
  stack : t.stack ≠ s.stack → ∃ nnn, i = .call nnn := by exact fun h => absurd rfl h
  sp : t.sp ≠ s.sp → i = .ret ∨ ∃ nnn, i = .call nnn := by exact fun h => absurd rfl h
  dt : t.dt ≠ s.dt → ∃ x, i = .ldDTVx x := by exact fun h => absurd rfl h
  st : t.st ≠ s.st → ∃ x, i = .ldSTVx x := by exact fun h => absurd rfl h
  mem : t.mem ≠ s.mem → ∃ x, i = .ldB x ∨ i = .storeRegs x := by exact fun h => absurd rfl h
  draws : t.draws ≠ s.draws → ∃ x nn, i = .rnd x nn := by exact fun h => absurd rfl h
  pc : t.pc ≠ s.pc → i = .ret ∨ (∃ nnn, i = .jp nnn ∨ i = .call nnn ∨ i = .jpV0 nnn) ∨ ∃ x, i = .ldVxK x := by
    exact fun h => absurd rfl h
  fb : t.fb ≠ s.fb → i = .cls ∨ ∃ x y n, i = .drw x y n := by exact fun h => absurd rfl h
  snapshots : t.snapshots ≠ s.snapshots → i = .cls ∨ ∃ x y n, i = .drw x y n := by exact fun h => absurd rfl h
  skip : t.skip ≠ s.skip → (skipCondition s i).isSome = true := by exact fun h => absurd rfl h
  status : t.status ≠ s.status → mayFault i := by exact fun h => absurd rfl h
  keys : t.keys = s.keys := by rfl
  keyq : t.keyq = s.keyq := by rfl
  cfg : t.cfg = s.cfg := by rfl
  agenda : t.agenda = s.agenda := by rfl
  supply : t.supply = s.supply := by rfl

/-- I changes in a block transfer under `MEMORY_INCREMENTS_I` only (43_index_memory.md R155, R156). -/
theorem State.memoryIncrementsI_of_incrementI_ne {s t : State} {len : Nat} (hi : t.i = s.i) (hcfg : t.cfg = s.cfg)
    (h : (t.incrementI len).i ≠ s.i) : s.cfg.memoryIncrementsI = true := by
  by_contra hoff
  rw [incrementI_eq, hcfg] at h
  exact h ((if_neg hoff).trans hi)

/-- Every instruction writes its own fields only; one that raises its fault writes the status alone. -/
theorem exec_onlyWritersWrite {i : Instr} {s t : State} (h : exec i s = .next t) : OnlyWritersWrite i s t := by
  cases i
  case cls => cases h; exact { fb := fun _ => .inl rfl, snapshots := fun _ => .inl rfl }
  case ret =>
    obtain hsp | hsp := Nat.eq_zero_or_pos s.sp.val
    · cases (exec_ret_of_empty s hsp).symm.trans h
      exact { status := fun _ => trivial }
    · cases (exec_ret_of_entry s hsp).symm.trans h
      exact { sp := fun _ => .inl rfl, pc := fun _ => .inl rfl }
  case sys => cases h; exact { status := fun _ => trivial }
  case jp nnn => cases h; exact { pc := fun _ => .inr (.inl ⟨nnn, .inl rfl⟩) }
  case jpV0 nnn => cases h; exact { pc := fun _ => .inr (.inl ⟨nnn, .inr (.inr rfl)⟩) }
  case call nnn =>
    obtain hsp | hsp := Nat.lt_or_ge s.sp.val 16
    · cases (exec_call_of_room s nnn hsp).symm.trans h
      exact { stack := fun _ => ⟨nnn, rfl⟩, sp := fun _ => .inr ⟨nnn, rfl⟩
              pc := fun _ => .inr (.inl ⟨nnn, .inr (.inl rfl)⟩) }
    · cases (exec_call_of_full s nnn (by omega)).symm.trans h
      exact { status := fun _ => trivial }
  case seImm | sneImm | seReg | sneReg | skp | sknp => cases h; exact { skip := fun _ => rfl }
  case ldImm x _ | addImm x _ | ldReg x _ | orReg x _ | andReg x _ | xorReg x _ | ldVxDT x =>
    cases h; exact { registers := fun _ => s.eq_of_readV_writeV_ne x }
  case addReg x _ | subReg x _ | shr x _ | subn x _ | shl x _ =>
    cases h; exact { registers := fun _ => s.eq_of_readV_writeVFlag_ne x }
  case rnd x nn =>
    cases h; exact { registers := fun _ => s.eq_of_readV_writeV_ne x, draws := fun _ => ⟨x, nn, rfl⟩ }
  case ldVxK x =>
    cases hheld : s.lowestHeld with
    | some k =>
      cases (exec_ldVxK_of_held x hheld).symm.trans h
      exact { registers := fun _ => s.eq_of_readV_writeV_ne x }
    | none =>
      cases (exec_ldVxK_of_noneHeld x hheld).symm.trans h
      exact { pc := fun _ => .inr (.inr ⟨x, rfl⟩) }
  case ldI nnn => cases h; exact { index := fun _ => .inl ⟨nnn, rfl⟩ }
  case ldF x => cases h; exact { index := fun _ => .inr (.inl ⟨x, .inr rfl⟩) }
  case addI x =>
    obtain hfits | hover := le_or_gt (s.i.toNat + (s.readV x).toNat) 0xFFFF
    · cases (exec_addI_of_fits s x hfits).symm.trans h
      exact { index := fun _ => .inr (.inl ⟨x, .inl rfl⟩) }
    · cases (exec_addI_of_overflows s x hover).symm.trans h
      exact { status := fun _ => trivial }
  case ldDTVx x => cases h; exact { dt := fun _ => ⟨x, rfl⟩ }
  case ldSTVx x => cases h; exact { st := fun _ => ⟨x, rfl⟩ }
  case drw x y n =>
    by_cases hfits : n = 0 ∨ s.i.toNat + n.toNat - 1 ≤ 0xFFF
    · cases (exec_drw_of_fits x y hfits).symm.trans h
      exact { registers := fun _ => s.eq_of_readV_writeV_ne vf, fb := fun _ => .inr ⟨x, y, n, rfl⟩
              snapshots := fun _ => .inr ⟨x, y, n, rfl⟩ }
    · obtain ⟨hn, hout⟩ := not_or.mp hfits
      cases (exec_drw_of_leavesMemory x y hn (Nat.lt_of_not_le hout)).symm.trans h
      exact { status := fun _ => trivial }
  case ldB x =>
    obtain hfits | hout := le_or_gt (s.i.toNat + 2) 0xFFF
    · cases (exec_ldB_of_fits s x hfits).symm.trans h
      exact { mem := fun _ => ⟨x, .inl rfl⟩ }
    · cases (exec_ldB_of_leavesMemory s x hout).symm.trans h
      exact { status := fun _ => trivial }
  case storeRegs x =>
    obtain hfits | hout := le_or_gt (s.i.toNat + x.toNat) 0xFFF
    · cases (exec_storeRegs_of_fits s x hfits).symm.trans h
      have hi (hne : (s.storeRegs x).i ≠ s.i) : s.cfg.memoryIncrementsI = true :=
        State.memoryIncrementsI_of_incrementI_ne (s.storeBlock_i _ _) (s.storeBlock_cfg _ _) hne
      rw [State.storeRegs_eq]
      exact { mem := fun _ => ⟨x, .inr rfl⟩, index := fun hne => .inr (.inr ⟨hi hne, x, .inl rfl⟩) }
    · cases (exec_storeRegs_of_leavesMemory s x hout).symm.trans h
      exact { status := fun _ => trivial }
  case loadRegs x =>
    obtain hfits | hout := le_or_gt (s.i.toNat + x.toNat) 0xFFF
    · cases (exec_loadRegs_of_fits s x hfits).symm.trans h
      have hi (hne : (s.loadRegs x).i ≠ s.i) : s.cfg.memoryIncrementsI = true :=
        State.memoryIncrementsI_of_incrementI_ne (s.loadBlock_i _ _) (s.loadBlock_cfg _ _) hne
      have hregs (r : RegIdx) (hne : (s.loadRegs x).readV r ≠ s.readV r) : r.toNat ≤ x.toNat := by
        by_contra hr
        exact hne ((s.readV_loadRegs x r).trans (if_neg hr))
      rw [State.loadRegs_eq]
      exact { registers := hregs, index := fun hne => .inr (.inr ⟨hi hne, x, .inr rfl⟩) }
    · cases (exec_loadRegs_of_leavesMemory s x hout).symm.trans h
      exact { status := fun _ => trivial }

end Sys2Proof.Machine

namespace Sys2Proof.Proofs

open Machine

/-- Settles O55: the writers of each field, and a byte of memory reads differently only where memory itself changed. -/
theorem everyFieldHasItsWriters : Obligations.EveryFieldHasItsWriters := by
  intro i s t h
  have hw := exec_onlyWritersWrite h
  have hmem (hne : t.mem ≠ s.mem ∨ ∃ a, t.byteAt a ≠ s.byteAt a) : t.mem ≠ s.mem :=
    hne.elim id fun ⟨a, ha⟩ heq => ha (State.byteAt_congr heq hw.cfg a)
  exact ⟨hw.registers, hw.index, hw.stack, hw.sp, hw.dt, hw.st, fun hne => hw.mem (hmem hne), hw.draws, hw.pc, hw.fb,
    hw.snapshots, hw.skip, hw.status, hw.keys, hw.keyq, hw.cfg, hw.agenda, hw.supply⟩

/-- Settles O54: 00E0 shows the cleared framebuffer, and a DXYN that raises no fault the drawn one; the framebuffer and
the stream have no other writer. -/
theorem onlyDisplayInstructionsEmit : Obligations.OnlyDisplayInstructionsEmit := by
  intro i s t h hrun
  refine ⟨?emits, fun hcls hdrw => ?keeps⟩
  case emits =>
    rintro (rfl | ⟨x, y, n, rfl⟩) hrun'
    · cases h; rfl
    · by_cases hfits : n = 0 ∨ s.i.toNat + n.toNat - 1 ≤ 0xFFF
      · cases (exec_drw_of_fits x y hfits).symm.trans h; rfl
      · obtain ⟨hn, hout⟩ := not_or.mp hfits
        cases (exec_drw_of_leavesMemory x y hn (Nat.lt_of_not_le hout)).symm.trans h
        cases hrun'
  case keeps =>
    have hno : ¬(i = .cls ∨ ∃ x y n, i = .drw x y n) :=
      not_or.mpr ⟨hcls, fun ⟨x, y, n, hi⟩ => hdrw x y n hi⟩
    have hw := exec_onlyWritersWrite h
    exact ⟨not_not.mp (mt hw.fb hno), not_not.mp (mt hw.snapshots hno)⟩

end Sys2Proof.Proofs
end

section
/-! PROOFS. What a step can do (10_state.md R22, R23, 60_exceptions.md R175, R180 to R185). -/

namespace Sys2Proof

open Machine

variable {s t : State} {rest : List AgentMove} {i : Instr} {m : AgentMove}

/-- The agenda is used up, even refilled, only where the engine is left alone (60_exceptions.md R181). -/
theorem refill_agenda_eq_nil_iff : s.refill.agenda = [] ↔ s.agenda = [] ∧ s.supply = .engineAlone := by
  constructor
  · intro h
    by_cases ha : s.agenda = []
    · cases hs : s.supply with
      | engineAlone => exact ⟨ha, rfl⟩
      | free n =>
        rw [State.refill_free ha hs] at h
        exact absurd h (List.concat_ne_nil _ _)
    · exact absurd (State.refill_of_agenda ha ▸ h) ha
  · rintro ⟨ha, hs⟩
    rw [State.refill_engineAlone hs, ha]

/-- With a move on the refilled agenda, the step is that move. -/
theorem step_of_move (h : s.refill.agenda = m :: rest) :
    step s = runMove m { s with agenda := rest, supply := s.refill.supply } := by
  unfold step nextMove State.makeMove
  rw [h]
  dsimp only
  rw [s.refill_eq]

/-- With no move left, the step is the engine's, or the halted machine's stop. -/
theorem step_of_noMove (h : s.refill.agenda = []) : step s = s.unscheduled := by
  unfold step nextMove State.makeMove
  rw [h]
  dsimp only
  rw [State.refill_engineAlone (refill_agenda_eq_nil_iff.mp h).2]

/-- With no move left for a halted engine, the machine stops with the record. -/
theorem step_of_noMove_of_halted {r : FaultRecord} (h : s.refill.agenda = []) (hs : s.status = .halted r) :
    step s = .fault (.engineHalted r) := by
  rw [step_of_noMove h, State.unscheduled, hs]

/-- An engine move scheduled for a halted engine does nothing (60_exceptions.md R175). -/
theorem runMove_engine_of_halted {r : FaultRecord} (h : s.status = .halted r) : runMove .engine s = .next s := by
  simp only [runMove, engineMove, h]

/-- Nothing changes but the timers, the key queue and the schedule. -/
def OnlyOtherAgentsMove (s t : State) : Prop :=
  t = { s with dt := t.dt, st := t.st, keyq := t.keyq, agenda := t.agenda, supply := t.supply }

/-- A step is the running engine's turn, or it leaves everything the engine owns as it was. -/
theorem enginesTurn_or_onlyOtherAgentsMove (h : step s = .next t) :
    (∃ rest, EnginesTurn s rest) ∨ OnlyOtherAgentsMove s t := by
  cases hagenda : s.refill.agenda with
  | nil =>
    cases hs : s.status with
    | running => exact .inl ⟨[], hs, .inr ⟨hagenda, rfl⟩⟩
    | halted r => cases (step_of_noMove_of_halted hagenda hs).symm.trans h
  | cons m rest =>
    rw [step_of_move hagenda] at h
    cases m with
    | engine =>
      cases hs : s.status with
      | running => exact .inl ⟨rest, hs, .inl hagenda⟩
      | halted r =>
        have hidle : runMove .engine { s with agenda := rest, supply := s.refill.supply } = .next _ :=
          runMove_engine_of_halted hs
        cases hidle.symm.trans h
        exact .inr rfl
    | terminate => cases h
    | tickDT | tickST | key e => cases h; exact .inr rfl

/-- In the engine's turn, a fetched instruction is run from `atExecute` (10_state.md R22 steps 2 to 5). -/
theorem step_of_decodes (h : EnginesTurn s rest) (hp : s.pc.toNat + 1 ≤ 0xFFF) (hd : decode s.fetchWord = .instr i) :
    step s = finishCycle (exec i (atExecute s rest)) :=
  (step_of_enginesTurn h).trans ((if_neg (Nat.not_lt.mpr hp)).trans (decodeAndExecute_instr hd _))

/-- In the engine's turn, a fetched word that is no instruction faults (10_state.md R22 step 3). -/
theorem step_of_unsupported {u : Word} (h : EnginesTurn s rest) (hp : s.pc.toNat + 1 ≤ 0xFFF)
    (hd : decode s.fetchWord = .unsupported u) :
    step s = .next (State.raise
      { s with
        agenda := rest, supply := s.refill.supply, keys := s.keyq.foldl applyKey s.keys, keyq := [], pc := s.pc + 2 }
      .unsupportedOpcode (some s.fetchWord) s.pc none) :=
  (step_of_enginesTurn h).trans ((if_neg (Nat.not_lt.mpr hp)).trans (decodeAndExecute_unsupported hd _))

/-- An instruction that skips on a condition is the skip primitive on it (00_scope.md R10). -/
theorem exec_of_skipCondition {c : Prop} (h : skipCondition s i = some c) :
    ∃ b : Bool, exec i s = .next (s.skipIf b) ∧ (b = true ↔ c) := by
  cases i
  case seImm | seReg => cases h; exact ⟨_, rfl, beq_iff_eq⟩
  case sneImm | sneReg => cases h; exact ⟨_, rfl, bne_iff_ne⟩
  case skp x => cases h; exact ⟨_, rfl, s.held_eq_true_iff _⟩
  case sknp x => cases h; exact ⟨_, rfl, by rw [Bool.not_eq_true', ← Bool.not_eq_true, s.held_eq_true_iff]⟩
  all_goals cases h

end Sys2Proof

namespace Sys2Proof.Machine

variable (s : State) (b : Byte)

@[simp] theorem State.endCycle_cfg : s.endCycle.cfg = s.cfg := by
  rw [endCycle_eq]
  split <;> rfl

/-- A tick lowers a counter by one, floor 0 (60_exceptions.md R182, R183). -/
theorem toNat_countDown : (countDown b).toNat = b.toNat - 1 := by
  unfold countDown
  split
  next hb => exact BitVec.toNat_sub_of_le (by bv_omega)
  next hb => rw [not_not.mp hb]; rfl

/-- The fault an instruction raises has the cause of its kind (60_exceptions.md R171). -/
theorem RaisesFault.faultCause {i : Instr} {s : State} {rest : List AgentMove} {k : FaultKind} {o : Option Word}
    {w : Word} (h : RaisesFault i (atExecute s rest) k o) (hd : decode w = .instr i) (word : Option Word) (a : Word) :
    FaultCause s w ⟨k, word, a, o⟩ := by
  cases i
  case sys nnn => obtain ⟨rfl, rfl⟩ := h; exact ⟨nnn, hd⟩
  case ret => obtain ⟨rfl, rfl, hsp⟩ := h; exact ⟨hd, hsp⟩
  case call nnn => obtain ⟨rfl, rfl, hsp⟩ := h; exact ⟨⟨nnn, hd⟩, hsp⟩
  case addI x => obtain ⟨rfl, rfl, hover⟩ := h; exact ⟨x, hd, hover⟩
  case drw x y n => obtain ⟨rfl, rfl, hn, hout⟩ := h; exact ⟨rfl, .inl ⟨x, y, n, hd, hn, hout⟩⟩
  case ldB x => obtain ⟨rfl, rfl, hout⟩ := h; exact ⟨rfl, .inr (.inl ⟨x, hd, hout⟩)⟩
  case storeRegs x => obtain ⟨rfl, rfl, hout⟩ := h; exact ⟨rfl, .inr (.inr ⟨x, .inl hd, hout⟩)⟩
  case loadRegs x => obtain ⟨rfl, rfl, hout⟩ := h; exact ⟨rfl, .inr (.inr ⟨x, .inr hd, hout⟩)⟩
  all_goals exact h.elim

end Sys2Proof.Machine

namespace Sys2Proof.Proofs

open Machine

/-- Settles O40: the engine's turn runs the decoded instruction, and step 5 of the cycle adds the 2 of a skip. -/
theorem stepRunsDecodedInstruction : Obligations.StepRunsDecodedInstruction := by
  intro s t rest i hturn hp hdec hexec
  rw [step_of_decodes hturn hp hdec, hexec, ← endCycle_eq]
  rfl

/-- Settles O42: the engine's turn ends at the decode. -/
theorem unsupportedWordFaults : Obligations.UnsupportedWordFaults :=
  fun _ _ _ hturn hp hdec => ⟨_, step_of_unsupported hturn hp hdec, rfl, rfl, fun _ => rfl⟩

/-- Settles O16: a skip sets the outcome, which the engine's turn cleared before, to its condition, and step 5 of the
cycle adds 2 to the advanced pc exactly when it is set. -/
theorem skipPassesOverTwoBytes : Obligations.SkipPassesOverTwoBytes := by
  intro s rest i c hturn hp hdec hcond
  obtain ⟨b, hexec, hb⟩ := exec_of_skipCondition hcond
  have hadd : (s.pc + 2).toNat = s.pc.toNat + 2 := by bv_omega
  have hadd' : (s.pc + 2 + 2).toNat = s.pc.toNat + 4 := by bv_omega
  have hstep := step_of_decodes hturn hp hdec
  rw [hexec] at hstep
  refine ⟨_, hstep, fun hc => ?taken, fun hc => ?notTaken, ?frame, ?bytes⟩
  all_goals rw [endCycle_eq]
  case taken =>
    obtain rfl := hb.mpr hc
    rw [if_pos ⟨hturn.1, rfl⟩]
    exact hadd'
  case notTaken =>
    obtain rfl : b = false := Bool.not_eq_true _ ▸ mt hb.mp hc
    rw [if_neg (by simp [atExecute])]
    exact hadd
  case frame => split <;> rfl
  case bytes => split <;> exact fun _ => rfl

/-- Settles O43: the step is the scheduled move. -/
theorem otherAgentsMove : Obligations.OtherAgentsMove := by
  refine fun s rest e => ⟨fun h => ?tickDT, fun h => ?tickST, fun h => step_of_move h⟩
  case tickDT => exact ⟨_, step_of_move h, toNat_countDown s.dt, rfl, fun _ => rfl⟩
  case tickST =>
    have hst := toNat_countDown s.st
    refine ⟨_, step_of_move h, hst, ?_, rfl, fun _ => rfl⟩
    rw [State.tone_eq_true_iff, ne_eq, ← BitVec.toNat_inj]
    change ¬(countDown s.st).toNat = 0 ↔ _
    omega

/-- Settles O46: a halted engine has no turn. -/
theorem haltedEngineNeverRuns : Obligations.HaltedEngineNeverRuns := by
  refine fun s r hhalt => ⟨fun t hstep => ?_, fun ha hs => ?_⟩
  · obtain ⟨rest, hrun, -⟩ | hframe := enginesTurn_or_onlyOtherAgentsMove hstep
    · cases hrun.symm.trans hhalt
    · exact hframe
  · exact step_of_noMove_of_halted (refill_agenda_eq_nil_iff.mpr ⟨ha, hs⟩) hhalt

/-- Settles O48: a turn that faults does so at the fetch, at the decode or by the instruction's own fault, each under
the condition of its kind. -/
theorem faultsOnlyForTheirCauses : Obligations.FaultsOnlyForTheirCauses := by
  refine ⟨fun s t rest r hturn hstep hhalt => ?_, rfl, rfl, rfl, rfl, rfl, rfl, rfl⟩
  obtain ⟨hout, rfl⟩ | ⟨hp, ⟨u, hu⟩, rfl⟩ | ⟨hp, i, hdec, ⟨k, o, hraise, rfl⟩ | ⟨u, -, hcompletes, rfl⟩⟩ :=
    enginesTurn_cases hturn hstep
  · cases hhalt
    exact ⟨hout, fun hne => absurd rfl hne⟩
  · cases hhalt
    obtain rfl := eq_of_decode_eq_unsupported hu
    exact ⟨hu, fun _ => hp⟩
  · cases hhalt
    exact ⟨hraise.faultCause hdec _ _, fun _ => hp⟩
  · rw [State.endCycle_status, hcompletes.status] at hhalt
    cases hturn.1.symm.trans hhalt

/-- Settles O56: no other agent touches the configuration, and no branch of the engine's turn does. -/
theorem configurationIsFixed : Obligations.ConfigurationIsFixed := by
  intro s t hstep
  obtain ⟨rest, hturn⟩ | hframe := enginesTurn_or_onlyOtherAgentsMove hstep
  · obtain ⟨-, rfl⟩ | ⟨-, -, rfl⟩ | ⟨-, i, -, ⟨k, o, -, rfl⟩ | ⟨u, -, hcompletes, rfl⟩⟩ :=
      enginesTurn_cases hturn hstep
    · rfl
    · rfl
    · rfl
    · exact (State.endCycle_cfg u).trans hcompletes.cfg
  · rw [hframe]

/-- Settles O57: an instruction raises its fault or completes; a step is a scheduled move, which only the host's
termination refuses, or the engine's, which stops where it is halted. -/
theorem everyInstructionExecutes : Obligations.EveryInstructionExecutes := by
  refine ⟨fun i s => ?exec, fun s => ?step⟩
  case exec =>
    obtain ⟨k, o, -, h⟩ | ⟨t, h, -⟩ := exec_raises_or_completes i s
    · exact ⟨_, h⟩
    · exact ⟨t, h⟩
  case step =>
    cases hagenda : s.refill.agenda with
    | nil =>
      cases hs : s.status with
      | running =>
        obtain ⟨t, ht, -⟩ := cycle_next s
        exact .inl ⟨t, by rw [step_of_noMove hagenda, State.unscheduled, hs]; exact ht⟩
      | halted r => exact .inr (.inr ⟨r, step_of_noMove_of_halted hagenda hs, rfl, refill_agenda_eq_nil_iff.mp hagenda⟩)
    | cons m rest =>
      by_cases hm : m = .terminate
      · subst hm
        exact .inr (.inl ⟨step_of_move hagenda, rest, rfl⟩)
      · obtain ⟨t, ht, -⟩ := runMove_next hm { s with agenda := rest, supply := s.refill.supply }
        exact .inl ⟨t, (step_of_move hagenda).trans ht⟩

end Sys2Proof.Proofs
end

section
/-! PROOFS. The invariant of every reachable state, and the machine as it starts (10_state.md R28, 20_memory.md R60 to
R67, 41_control_flow.md R111, 70_reset_and_hazards.md R200 to R202). -/

namespace Sys2Proof

open Machine

variable {s t : State} {rest : List AgentMove} {i : Instr}

/-- Every held return address is at most 0x1000 (41_control_flow.md R111). -/
def ReturnsBounded (s : State) : Prop := ∀ k : Fin 16, k.val < s.sp.val → s.stack[k].toNat ≤ 0x1000

/-- A CALL adds the advanced pc to the return addresses. -/
theorem returnsBounded_callTo (nnn : Addr) (hroom : s.sp.val < 16) (hpc : s.pc.toNat ≤ 0x1000)
    (hreturns : ReturnsBounded s) : ReturnsBounded (s.callTo nnn hroom) := by
  intro k hk
  change (s.stack.set s.sp.val s.pc hroom)[k.val].toNat ≤ 0x1000
  rw [Vector.getElem_set]
  split
  next => exact hpc
  next hne => exact hreturns k (Nat.lt_of_le_of_ne (Nat.lt_succ_iff.mp hk) (Ne.symm hne))

/-- The return addresses stay bounded: CALL adds pc, RET drops one, and no other instruction writes the stack or its
depth. -/
theorem returnsBounded_of_exec (h : exec i s = .next t) (hpc : s.pc.toNat ≤ 0x1000) (hreturns : ReturnsBounded s) :
    ReturnsBounded t := by
  by_cases hstackOp : i = .ret ∨ ∃ nnn, i = .call nnn
  · obtain rfl | ⟨nnn, rfl⟩ := hstackOp
    · obtain hempty | hentry := Nat.eq_zero_or_pos s.sp.val
      · cases (exec_ret_of_empty s hempty).symm.trans h
        exact hreturns
      · cases (exec_ret_of_entry s hentry).symm.trans h
        exact fun k hk => hreturns k (Nat.lt_of_lt_of_le hk (Nat.sub_le _ _))
    · obtain hroom | hfull := Nat.lt_or_ge s.sp.val 16
      · cases (exec_call_of_room s nnn hroom).symm.trans h
        exact returnsBounded_callTo nnn hroom hpc hreturns
      · cases (exec_call_of_full s nnn (by omega)).symm.trans h
        exact hreturns
  · have hw := exec_onlyWritersWrite h
    have hsp : t.sp = s.sp := not_not.mp (mt hw.sp hstackOp)
    have hstack : t.stack = s.stack := not_not.mp (mt hw.stack (not_or.mp hstackOp).2)
    unfold ReturnsBounded
    rwa [hsp, hstack]

/-- Step 5 of the cycle changes pc and nothing else. -/
theorem endCycle_frame (t : State) : t.endCycle = { t with pc := t.endCycle.pc } := by
  rw [endCycle_eq]
  split <;> rfl

/-- Where the engine runs nothing, the invariant stands. -/
theorem inv_of_onlyOtherAgentsMove (h : OnlyOtherAgentsMove s t) (hinv : Inv s) : Inv t := by
  rw [h]
  exact ⟨hinv.memory, hinv.pcBound, hinv.returns, hinv.record⟩

/-- The pc past a fetched word, the return address of a CALL (41_control_flow.md R111). -/
theorem atExecute_pc_le (hp : s.pc.toNat + 1 ≤ 0xFFF) : (atExecute s rest).pc.toNat ≤ 0x1000 := by
  change (s.pc + 2).toNat ≤ 0x1000
  bv_omega

/-- The engine's turn keeps the invariant: a turn that faults leaves pc or advances it, and one that completes moves it
as `Proofs.PcMoved` lists. -/
theorem inv_of_enginesTurn (hturn : EnginesTurn s rest) (hstep : step s = .next t) (hinv : Inv s) : Inv t := by
  have hrecord (r : FaultRecord) (hr : t.status = .halted r) : recordColumns r := by
    obtain ⟨-, -, -, -, hcolumns, -⟩ := Proofs.faultsArePrecise s t rest r hturn hstep hr
    exact hcolumns
  obtain ⟨-, rfl⟩ | ⟨hp, -, rfl⟩ | ⟨hp, i, -, ⟨k, o, -, rfl⟩ | ⟨u, hexec, hcompletes, rfl⟩⟩ :=
    enginesTurn_cases hturn hstep
  · exact ⟨hinv.memory, hinv.pcBound, hinv.returns, hrecord⟩
  · exact ⟨hinv.memory, (atExecute_pc_le (rest := rest) hp).trans (by decide), hinv.returns, hrecord⟩
  · exact ⟨hinv.memory, (atExecute_pc_le (rest := rest) hp).trans (by decide), hinv.returns, hrecord⟩
  · have hbound := (Proofs.pcMoved_of_completes hp hexec hcompletes).le_of_inv hp hinv
    have hreturns := returnsBounded_of_exec hexec (atExecute_pc_le hp) hinv.returns
    rw [endCycle_frame] at hrecord ⊢
    exact ⟨hcompletes.wf hinv.memory, hbound, hreturns, hrecord⟩

end Sys2Proof

namespace Sys2Proof.Machine

/-- Placing bytes keeps memory canonical. -/
theorem State.wf_placeBytes {s : State} (h : Memory.wf s.cfg.font s.mem) (a : Nat) (p : List Byte) :
    Memory.wf (s.placeBytes a p).cfg.font (s.placeBytes a p).mem := by
  induction p generalizing s a with
  | nil => exact h
  | cons b p ih => exact ih (State.wf_memWrite h a b) (a + 1)

/-- The machine as construction leaves it meets the invariant, whatever program is placed. -/
theorem inv_construct_placeBytes (cfg : Config) (agenda : List AgentMove) (a : Nat) (p : List Byte) :
    Inv { (State.construct cfg).placeBytes a p with agenda := agenda } := by
  have hwf := State.wf_placeBytes (s := State.construct cfg) Memory.wf_nil a p
  rw [State.placeBytes_eq] at hwf ⊢
  exact ⟨hwf, show 0x200 ≤ 0x10FE by decide, nofun, nofun⟩

/-- A constructed machine's program fits (20_memory.md R65). -/
theorem length_le_of_init {cfg : Config} {agenda : List AgentMove} {p : List Byte} {s : State}
    (h : init cfg agenda p = .machine s) : p.length ≤ progMax := by
  by_contra hbig
  cases (init_of_tooBig cfg agenda (Nat.lt_of_not_le hbig)).symm.trans h

/-- A constructed machine with an engine cycle scheduled first: its execute step starts past 0x200, with no key drained
and no skip outcome to clear (70_reset_and_hazards.md R202). -/
theorem enginesTurn_of_construct {cfg : Config} {rest : List AgentMove} {s : State}
    (h : s = { State.construct cfg with mem := s.mem, agenda := .engine :: rest }) :
    EnginesTurn s rest ∧ s.pc = 0x200 ∧ atExecute s rest = { s with pc := 0x202, agenda := rest } := by
  rw [h]
  exact ⟨⟨rfl, .inl rfl⟩, rfl, rfl⟩

/-- What the cycle answers, with step 5 as one record update (10_state.md R22). -/
theorem finishCycle_eq (a : Answer) :
    finishCycle a = (match a with
      | .next t => .next (if t.status = .running ∧ t.skip = true then { t with pc := t.pc + 2 } else t)
      | .fault r => .fault r
      | .refused r => .refused r) := by
  cases a with
  | next t => exact congrArg _ (endCycle_eq t)
  | fault r => rfl
  | refused r => rfl

end Sys2Proof.Machine

namespace Sys2Proof.Proofs

open Machine

/-- Settles O49: the engine's turn keeps the invariant, and the other agents touch nothing it speaks of. -/
theorem stepKeepsInv : Obligations.StepKeepsInv := by
  intro s t hinv hstep
  obtain ⟨rest, hturn⟩ | hother := enginesTurn_or_onlyOtherAgentsMove hstep
  · exact inv_of_enginesTurn hturn hstep hinv
  · exact inv_of_onlyOtherAgentsMove hother hinv

/-- Settles O50: `State.reset` is the constructed machine with no program placed. -/
theorem constructedMachineMeetsInv : Obligations.ConstructedMachineMeetsInv := by
  refine ⟨inv_construct_placeBytes Config.default [] progBase [], fun cfg agenda p t h => ?_⟩
  cases (init_of_fits cfg agenda (length_le_of_init h)).symm.trans h
  exact inv_construct_placeBytes cfg agenda progBase p

/-- Settles O51: the constructed machine's fields, and its memory, whose bytes are all unlisted. -/
theorem resetState : Obligations.ResetState := by
  refine ⟨rfl, fun r => ?registers, rfl, rfl, fun k => ?stack, fun r => ?fb, rfl, rfl, rfl, rfl, rfl, rfl, rfl, rfl,
    fun k hk => ?glyphs, fun a ha => ?zeros⟩
  case registers => exact Vector.getElem_replicate r.isLt
  case stack => exact Vector.getElem_replicate k.isLt
  case fb => exact Vector.getElem_replicate r.isLt
  case glyphs => exact unlistedByte_glyph defaultFont hk
  case zeros => exact unlistedByte_eq_zero defaultFont ha

/-- Settles O59: the program's first two bytes stand at 0x200, where pc points, so the first turn fetches them. -/
theorem firstCycleRunsFirstWord : Obligations.FirstCycleRunsFirstWord := by
  intro cfg rest hi lo p i s hinit hdec
  obtain ⟨t, ht, hprog, -, -, hframe⟩ := (initPlacesProgram cfg _ _).1 (length_le_of_init hinit)
  cases ht.symm.trans hinit
  obtain ⟨hturn, hpc, hexecute⟩ := enginesTurn_of_construct hframe
  have hfetch : s.fetchWord = hi ++ lo := by
    have hhi : s.byteAt 0x200 = hi := hprog 0 (Nat.succ_pos _)
    have hlo : s.byteAt 0x201 = lo := hprog 1 (Nat.succ_lt_succ (Nat.succ_pos _))
    rw [State.fetchWord, hpc, wordOfBytes]
    exact congrArg₂ _ hhi hlo
  rw [step_of_decodes hturn (hpc ▸ by decide) (hfetch ▸ hdec), finishCycle_eq, hexecute]
  rfl

end Sys2Proof.Proofs
end

section
/-! PROOFS. Memory as data (20_memory.md R60, R61). -/

namespace Sys2Proof.Machine

/-- An entry of a canonical memory is a byte of the address space that reads as no unlisted byte does. -/
theorem Memory.mem_iff_of_wf {font : Vector Byte 80} {m : Memory} (h : Memory.wf font m) (c : Host.Cell) :
    c ∈ m ↔ c.1 ≤ 0xFFF ∧ c.2 ≠ unlistedByte font c.1 ∧ Memory.read font m c.1 = c.2 := by
  obtain ⟨hrising, hcells⟩ := h
  constructor
  · intro hc
    obtain ⟨ha, hb⟩ := hcells c hc
    exact ⟨ha, hb, congrArg (Option.getD · _) (Memory.cellAt_of_mem hrising hc)⟩
  · rintro ⟨-, hb, hread⟩
    unfold Memory.read at hread
    cases hcell : Memory.cellAt m c.1 with
    | none => exact absurd (by rw [← hread, hcell]; rfl) hb
    | some b =>
      rw [hcell] at hread
      exact Memory.mem_of_cellAt (hcell.trans (congrArg some hread))

end Sys2Proof.Machine

namespace Sys2Proof.Proofs

open Machine

/-- Settles O35: reads decide the entries, and a rising list is decided by its entries. -/
theorem equalReadsAreEqualMemories : Obligations.EqualReadsAreEqualMemories := by
  intro font m₁ m₂ h₁ h₂ hreads
  have hentries (c : Host.Cell) : c ∈ m₁ ↔ c ∈ m₂ := by
    rw [Memory.mem_iff_of_wf h₁, Memory.mem_iff_of_wf h₂]
    exact and_congr_right fun ha => by rw [hreads c.1 ha]
  have hirrefl : Std.Irrefl fun p q : Host.Cell => p.1 < q.1 := ⟨fun p => Nat.lt_irrefl p.1⟩
  have hantisymm : Std.Antisymm fun p q : Host.Cell => p.1 < q.1 := ⟨fun p q hpq hqp => absurd hqp hpq.asymm⟩
  exact h₁.1.eq_of_mem_iff h₂.1 hentries

end Sys2Proof.Proofs
end

section
/-! PROOFS. Runs of moves and steps (60_exceptions.md R180, R182 to R184). -/

namespace Sys2Proof.Machine

variable (s : State) (a : List AgentMove)

/-- The state with another agenda. -/
def State.withAgenda : State := { s with agenda := a }

theorem drawRows_withAgenda (base cx cy n : Nat) :
    drawRows (s.withAgenda a) base cx cy n = drawRows s base cx cy n := by
  induction n with
  | zero => rfl
  | succ k ih => rw [drawRows, ih]; rfl

theorem State.storeBlock_withAgenda (base len : Nat) :
    (s.withAgenda a).storeBlock base len = (s.storeBlock base len).withAgenda a := by
  induction len with
  | zero => rfl
  | succ k ih => rw [storeBlock, ih]; rfl

theorem State.loadBlock_withAgenda (base len : Nat) :
    (s.withAgenda a).loadBlock base len = (s.loadBlock base len).withAgenda a := by
  induction len with
  | zero => rfl
  | succ k ih => rw [loadBlock, ih]; rfl

theorem State.incrementI_withAgenda (len : Nat) :
    (s.withAgenda a).incrementI len = (s.incrementI len).withAgenda a := by
  rw [incrementI_eq, incrementI_eq]
  rfl

theorem State.drawSprite_withAgenda (x y : RegIdx) (n : Nibble) :
    (s.withAgenda a).drawSprite x y n = (s.drawSprite x y n).withAgenda a := by
  unfold drawSprite
  rw [drawRows_withAgenda]
  rfl

theorem State.storeRegs_withAgenda (x : RegIdx) :
    (s.withAgenda a).storeRegs x = (s.storeRegs x).withAgenda a := by
  unfold storeRegs
  rw [storeBlock_withAgenda, incrementI_withAgenda]
  rfl

theorem State.loadRegs_withAgenda (x : RegIdx) :
    (s.withAgenda a).loadRegs x = (s.loadRegs x).withAgenda a := by
  unfold loadRegs
  rw [loadBlock_withAgenda, incrementI_withAgenda]
  rfl

theorem State.endCycle_withAgenda : (s.withAgenda a).endCycle = s.endCycle.withAgenda a := by
  rw [endCycle_eq, endCycle_eq]
  unfold withAgenda
  split <;> rfl

variable {s} {t : State}

/-- No instruction reads the agenda. -/
theorem exec_withAgenda {i : Instr} (h : exec i s = .next t) : exec i (s.withAgenda a) = .next (t.withAgenda a) := by
  cases i
  case ret =>
    obtain hempty | hentry := Nat.eq_zero_or_pos s.sp.val
    · cases (exec_ret_of_empty s hempty).symm.trans h
      exact exec_ret_of_empty _ hempty
    · cases (exec_ret_of_entry s hentry).symm.trans h
      exact exec_ret_of_entry (s.withAgenda a) hentry
  case call nnn =>
    obtain hroom | hfull := Nat.lt_or_ge s.sp.val 16
    · cases (exec_call_of_room s nnn hroom).symm.trans h
      exact exec_call_of_room (s.withAgenda a) nnn hroom
    · have hfull : s.sp.val = 16 := by omega
      cases (exec_call_of_full s nnn hfull).symm.trans h
      exact exec_call_of_full _ nnn hfull
  case addI x =>
    obtain hfits | hover := le_or_gt (s.i.toNat + (s.readV x).toNat) 0xFFFF
    · cases (exec_addI_of_fits s x hfits).symm.trans h
      exact exec_addI_of_fits _ x hfits
    · cases (exec_addI_of_overflows s x hover).symm.trans h
      exact exec_addI_of_overflows _ x hover
  case drw x y n =>
    by_cases hfits : n = 0 ∨ s.i.toNat + n.toNat - 1 ≤ 0xFFF
    · cases (exec_drw_of_fits x y hfits).symm.trans h
      rw [← State.drawSprite_withAgenda]
      exact exec_drw_of_fits x y hfits
    · obtain ⟨hn, hout⟩ := not_or.mp hfits
      have hout := Nat.lt_of_not_le hout
      cases (exec_drw_of_leavesMemory x y hn hout).symm.trans h
      exact exec_drw_of_leavesMemory x y hn hout
  case ldB x =>
    obtain hfits | hout := le_or_gt (s.i.toNat + 2) 0xFFF
    · cases (exec_ldB_of_fits s x hfits).symm.trans h
      exact exec_ldB_of_fits _ x hfits
    · cases (exec_ldB_of_leavesMemory s x hout).symm.trans h
      exact exec_ldB_of_leavesMemory _ x hout
  case storeRegs x =>
    obtain hfits | hout := le_or_gt (s.i.toNat + x.toNat) 0xFFF
    · cases (exec_storeRegs_of_fits s x hfits).symm.trans h
      rw [← State.storeRegs_withAgenda]
      exact exec_storeRegs_of_fits _ x hfits
    · cases (exec_storeRegs_of_leavesMemory s x hout).symm.trans h
      exact exec_storeRegs_of_leavesMemory _ x hout
  case loadRegs x =>
    obtain hfits | hout := le_or_gt (s.i.toNat + x.toNat) 0xFFF
    · cases (exec_loadRegs_of_fits s x hfits).symm.trans h
      rw [← State.loadRegs_withAgenda]
      exact exec_loadRegs_of_fits _ x hfits
    · cases (exec_loadRegs_of_leavesMemory s x hout).symm.trans h
      exact exec_loadRegs_of_leavesMemory _ x hout
  case ldVxK x =>
    cases hheld : s.lowestHeld with
    | some k =>
      cases (exec_ldVxK_of_held x hheld).symm.trans h
      exact exec_ldVxK_of_held x hheld
    | none =>
      cases (exec_ldVxK_of_noneHeld x hheld).symm.trans h
      exact exec_ldVxK_of_noneHeld x hheld
  all_goals cases h; rfl

/-- No cycle reads the agenda. -/
theorem cycle_withAgenda (h : cycle s = .next t) : cycle (s.withAgenda a) = .next (t.withAgenda a) := by
  obtain hout | hp := Nat.lt_or_ge 0xFFF (s.pc.toNat + 1)
  · have hout' : 0xFFF < s.drainKeys.pc.toNat + 1 := hout
    cases (State.fetchAndExecute_pastEnd hout').symm.trans h
    exact State.fetchAndExecute_pastEnd (s := (s.withAgenda a).drainKeys) hout
  · have hcycle (r : State) (hr : r.pc = s.pc) : cycle r = decodeAndExecute r.drainKeys.fetchWord r.drainKeys :=
      if_neg (Nat.not_lt.mpr (hr ▸ hp))
    rw [hcycle s rfl] at h
    rw [hcycle (s.withAgenda a) rfl]
    change decodeAndExecute s.drainKeys.fetchWord (s.withAgenda a).drainKeys = _
    cases hd : decode s.drainKeys.fetchWord with
    | unsupported u =>
      cases (decodeAndExecute_unsupported hd s.drainKeys).symm.trans h
      exact decodeAndExecute_unsupported hd _
    | instr i =>
      rw [decodeAndExecute_instr hd] at h ⊢
      obtain ⟨u, hu⟩ := Proofs.everyInstructionExecutes.1 i { s.drainKeys.advancePc with skip := false }
      rw [hu] at h
      cases h
      rw [← State.endCycle_withAgenda]
      exact congrArg finishCycle (exec_withAgenda a hu)

/-- No agent's move reads the agenda. -/
theorem runMove_withAgenda {m : AgentMove} (h : runMove m s = .next t) :
    runMove m (s.withAgenda a) = .next (t.withAgenda a) := by
  cases m with
  | engine =>
    cases hs : s.status with
    | running =>
      have hcycle (r : State) (hr : r.status = s.status) : runMove .engine r = cycle r := by
        simp only [runMove, engineMove, hr, hs]
      rw [hcycle s rfl] at h
      rw [hcycle (s.withAgenda a) rfl]
      exact cycle_withAgenda a h
    | halted r =>
      cases (runMove_engine_of_halted hs).symm.trans h
      exact runMove_engine_of_halted hs
  | terminate => cases h
  | tickDT | tickST | key e => cases h; rfl

theorem runMoves_cons_eq_next {m : AgentMove} {ms : List AgentMove} :
    runMoves (m :: ms) s = .next t ↔ ∃ u, runMove m s = .next u ∧ runMoves ms u = .next t := by
  rw [runMoves]
  cases runMove m s <;> simp

theorem core_run_succ (h : step s = .next t) (k : Nat) : core.run (k + 1) s = core.run k t := by
  have h : core.step s = .next t := h
  simp only [Host.Core.run, h]

/-- Refilling the agenda is the first thing a step does. -/
theorem step_refill : step s.refill = step s := by
  unfold step nextMove
  rw [State.refill_refill]

/-- With the moves on its agenda, the machine makes them, step by step. -/
theorem run_of_runMoves {ms rest : List AgentMove} (h : runMoves ms s = .next t) :
    core.run ms.length (s.withAgenda (ms ++ rest)) = .next (t.withAgenda rest) := by
  induction ms generalizing s with
  | nil => cases h; rfl
  | cons m ms ih =>
    obtain ⟨u, hmove, hmoves⟩ := runMoves_cons_eq_next.mp h
    have hstep : step (s.withAgenda (m :: (ms ++ rest))) = .next (u.withAgenda (ms ++ rest)) :=
      (step_of_move (s := s.withAgenda (m :: (ms ++ rest))) rfl).trans (runMove_withAgenda (s := s) _ hmove)
    exact (core_run_succ hstep _).trans (ih hmoves)

/-- Ticks of one counter in a row (60_exceptions.md R184). -/
theorem runMoves_tickDT (s : State) (n : Nat) :
    runMoves (List.replicate n .tickDT) s = .next { s with dt := countDown^[n] s.dt } := by
  induction n generalizing s with
  | zero => rfl
  | succ n ih => exact ih s.tickDT

theorem runMoves_tickST (s : State) (n : Nat) :
    runMoves (List.replicate n .tickST) s = .next { s with st := countDown^[n] s.st } := by
  induction n generalizing s with
  | zero => rfl
  | succ n ih => exact ih s.tickST

theorem toNat_iterate_countDown (b : Byte) (n : Nat) : (countDown^[n] b).toNat = b.toNat - n := by
  induction n with
  | zero => rfl
  | succ n ih => rw [Function.iterate_succ_apply', toNat_countDown, ih, Nat.sub_sub]

end Sys2Proof.Machine

namespace Sys2Proof.Proofs

open Machine

/-- Settles O44: n ticks are n countdowns. -/
theorem ticksReachZero : Obligations.TicksReachZero :=
  fun n s => ⟨⟨_, runMoves_tickDT s n, toNat_iterate_countDown s.dt n, rfl⟩,
    ⟨_, runMoves_tickST s n, toNat_iterate_countDown s.st n, rfl⟩⟩

/-- Settles O58: a step makes the first move of its agenda whatever stands behind it; where nothing stands, it refills
the agenda first. -/
theorem everyInterleavingIsARun : Obligations.EveryInterleavingIsARun := by
  refine ⟨fun ms rest s t hagenda hmoves => ?runs, fun n s hagenda hsupply => ?refills⟩
  case runs =>
    have hs : s.withAgenda (ms ++ rest) = s := by rw [← hagenda]; rfl
    have hrun := run_of_runMoves (rest := rest) hmoves
    rwa [hs] at hrun
  case refills => rw [← State.refill_free hagenda hsupply, step_refill]

end Sys2Proof.Proofs
end

section
/-! PROOFS. Infinite runs and the rounds of the free schedule (60_exceptions.md R181, R184). -/

namespace Sys2Proof

open Machine

/-! What a run on the free schedule reaches. -/

variable {s t : State} {m : AgentMove} {rest : List AgentMove}

theorem movesNext_of_cons (h : s.refill.agenda = m :: rest) : movesNext s = m := by
  simp only [movesNext, h]

/-- A move but the engine's, where it is next, stands on the refilled agenda. -/
theorem exists_agenda_of_movesNext (h : movesNext s = m) (hm : m ≠ .engine) :
    ∃ rest, s.refill.agenda = m :: rest := by
  unfold movesNext at h
  split at h
  next => exact absurd h.symm hm
  next m' rest hagenda => exact ⟨rest, h ▸ hagenda⟩

/-- A step takes the first move off the refilled agenda. -/
theorem schedule_after_step (h : step s = .next t) (hagenda : s.refill.agenda = m :: rest) :
    t.agenda = rest ∧ t.supply = s.refill.supply := by
  obtain ⟨hsupply, ⟨hnil, -⟩ | ⟨m', hcons, -⟩⟩ := step_schedule h
  · cases hagenda.symm.trans hnil
  · exact ⟨(List.cons.inj (hagenda.symm.trans hcons)).2.symm, hsupply⟩

/-- The free schedule goes on freely. -/
theorem supply_free_of_step (h : step s = .next t) (hfree : ∃ n, s.supply = .free n) : ∃ n, t.supply = .free n := by
  obtain ⟨n, hn⟩ := hfree
  rw [(step_schedule h).1]
  by_cases hagenda : s.agenda = []
  · exact ⟨n + 1, by rw [State.refill_free hagenda hn]⟩
  · exact ⟨n, by rw [State.refill_of_agenda hagenda, hn]⟩

/-- Round `n` of the free schedule is next. -/
def AtRound (n : Nat) (s : State) : Prop := s.agenda = [] ∧ s.supply = .free n

section Runs

variable {tr : Nat → State} (hrun : IsRun tr)
include hrun

/-- The last move of an agenda is reached, and then the agenda is used up. -/
theorem reaches_last {ms : List AgentMove} {k : Nat} (h : (tr k).refill.agenda = ms ++ [m]) :
    ∃ j, k ≤ j ∧ movesNext (tr j) = m ∧ (tr (j + 1)).agenda = [] ∧ (tr (j + 1)).supply = (tr k).refill.supply := by
  induction ms generalizing k with
  | nil => exact ⟨k, le_rfl, movesNext_of_cons h, schedule_after_step (hrun k) h⟩
  | cons a ms ih =>
    obtain ⟨hagenda, hsupply⟩ := schedule_after_step (hrun k) h
    have hrefill : (tr (k + 1)).refill = tr (k + 1) :=
      State.refill_of_agenda (hagenda ▸ List.concat_ne_nil m ms)
    obtain ⟨j, hj, hmove, hempty, hrest⟩ := ih (hrefill ▸ hagenda)
    exact ⟨j, Nat.le_of_succ_le hj, hmove, hempty, by rw [hrest, hrefill, hsupply]⟩

/-- A round ends with its due move, and the next round follows. -/
theorem reaches_due {k n : Nat} (h : AtRound n (tr k)) :
    ∃ j, k ≤ j ∧ movesNext (tr j) = dueMoveOfRound n ∧ AtRound (n + 1) (tr (j + 1)) := by
  have hrefill := State.refill_free h.1 h.2
  obtain ⟨j, hj, hmove, hempty, hsupply⟩ := reaches_last hrun (congrArg State.agenda hrefill)
  exact ⟨j, hj, hmove, hempty, hsupply.trans (congrArg State.supply hrefill)⟩

/-- So does every later round. -/
theorem reaches_later_due {k n : Nat} (h : AtRound n (tr k)) (d : Nat) :
    ∃ j, k ≤ j ∧ movesNext (tr j) = dueMoveOfRound (n + d) := by
  induction d generalizing k n with
  | zero =>
    obtain ⟨j, hj, hmove, -⟩ := reaches_due hrun h
    exact ⟨j, hj, hmove⟩
  | succ d ih =>
    obtain ⟨i, hi, -, hnext⟩ := reaches_due hrun h
    obtain ⟨j, hj, hmove⟩ := ih hnext
    exact ⟨j, by omega, by rw [hmove, Nat.add_right_comm, Nat.add_assoc]⟩

variable (hfree : ∃ n, (tr 0).supply = .free n)
include hfree

theorem supply_free_of_isRun (k : Nat) : ∃ n, (tr k).supply = .free n := by
  induction k with
  | zero => exact hfree
  | succ k ih => exact supply_free_of_step (hrun k) ih

/-- From every point of the run on, a new round comes. -/
theorem reaches_round (k : Nat) : ∃ j, k ≤ j ∧ ∃ n, AtRound n (tr j) := by
  have hne : (tr k).refill.agenda ≠ [] := by
    intro hnil
    obtain ⟨n, hn⟩ := supply_free_of_isRun hrun hfree k
    cases hn.symm.trans (refill_agenda_eq_nil_iff.mp hnil).2
  obtain ⟨j, hj, -, hempty, -⟩ := reaches_last hrun (List.dropLast_append_getLast hne).symm
  obtain ⟨n, hn⟩ := supply_free_of_isRun hrun hfree (j + 1)
  exact ⟨j + 1, by omega, n, hempty, hn⟩

/-- The due moves come in turn, so each comes infinitely often. -/
theorem again_dueMove (r : Nat) : AgainAndAgain fun k => movesNext (tr k) = dueMoveOfRound r := by
  intro k
  obtain ⟨i, hi, n, hround⟩ := reaches_round hrun hfree k
  obtain ⟨j, hj, hmove⟩ := reaches_later_due hrun hround (r + 2 * n)
  have hturn : (n + (r + 2 * n)) % 3 = r % 3 := by omega
  refine ⟨j, hi.trans hj, hmove.trans ?_⟩
  rw [dueMoveOfRound, dueMoveOfRound, hturn]

theorem fairRun_of_isRun : FairRun tr :=
  ⟨again_dueMove hrun hfree 1, again_dueMove hrun hfree 2, fun _ => again_dueMove hrun hfree 0⟩

end Runs

/-! Timers that no step raises (60_exceptions.md R184). -/

theorem AgainAndAgain.mono {p q : Nat → Prop} (h : AgainAndAgain p) (hpq : ∀ k, p k → q k) : AgainAndAgain q :=
  fun k => (h k).imp fun j => And.imp_right (hpq j)

/-- A number that never rises and falls again and again, floor 0, comes to 0 and stays there. -/
theorem eventually_zero {f : Nat → Nat} (hle : ∀ k, f (k + 1) ≤ f k)
    (hfalls : AgainAndAgain fun k => f (k + 1) = f k - 1) : ∃ k, ∀ j, k ≤ j → f j = 0 := by
  have hconst (j : Nat) (hj : Function.argmin f ≤ j) : f j = f (Function.argmin f) :=
    le_antisymm (antitone_nat_of_succ_le hle hj) (Function.argmin_le f j)
  refine ⟨Function.argmin f, fun j hj => ?_⟩
  obtain ⟨i, hi, hfall⟩ := hfalls (Function.argmin f)
  have := hconst i hi
  have := hconst (i + 1) (by omega)
  have := hconst j hj
  omega

theorem dt_of_tick {s t : State} (hstep : step s = .next t) (h : movesNext s = .tickDT) :
    t.dt.toNat = s.dt.toNat - 1 := by
  obtain ⟨rest, hagenda⟩ := exists_agenda_of_movesNext h nofun
  cases (step_of_move hagenda).symm.trans hstep
  exact toNat_countDown s.dt

theorem st_of_tick {s t : State} (hstep : step s = .next t) (h : movesNext s = .tickST) :
    t.st.toNat = s.st.toNat - 1 := by
  obtain ⟨rest, hagenda⟩ := exists_agenda_of_movesNext h nofun
  cases (step_of_move hagenda).symm.trans hstep
  exact toNat_countDown s.st

/-! The rounds that make a given interleaving (60_exceptions.md R180, R181): round `n` goes on to the next place of its
due move. -/

/-- Where round `n` starts in an interleaving, when from place `k` on its due move comes at place `due n k`. -/
def roundStart (due : Nat → Nat → Nat) : Nat → Nat
  | 0 => 0
  | n + 1 => due n (roundStart due n) + 1

/-- The moves of round `n` before its due move. -/
def otherMovesOfRound (moves : Nat → AgentMove) (due : Nat → Nat → Nat) (n : Nat) : List AgentMove :=
  (List.range' (roundStart due n) (due n (roundStart due n) - roundStart due n)).map moves

/-- In a fair interleaving every due move comes, from every place on. -/
theorem FairSchedule.exists_due {moves : Nat → AgentMove} (h : FairSchedule moves) (n k : Nat) :
    ∃ j, k ≤ j ∧ moves j = dueMoveOfRound n := by
  obtain ⟨-, hengine, hdt, hst⟩ := h
  unfold dueMoveOfRound
  split
  · exact hengine k
  · exact hdt k
  · exact hst k

variable {moves : Nat → AgentMove} {due : Nat → Nat → Nat}

theorem le_roundStart (hle : ∀ n k, k ≤ due n k) (n : Nat) : n ≤ roundStart due n := by
  induction n with
  | zero => exact le_rfl
  | succ n ih => exact Nat.succ_le_succ (ih.trans (hle n _))

/-- A round makes the stretch of the interleaving from its start to the next. -/
theorem roundMoves_otherMovesOfRound (hmoves : ∀ k, moves k ≠ .terminate) (hle : ∀ n k, k ≤ due n k)
    (hdue : ∀ n k, moves (due n k) = dueMoveOfRound n) (n : Nat) :
    roundMoves (otherMovesOfRound moves due) n =
      (List.range' (roundStart due n) (roundStart due (n + 1) - roundStart due n)).map moves := by
  have hfilter : (otherMovesOfRound moves due n).filter (fun m => m != .terminate) = otherMovesOfRound moves due n := by
    refine List.filter_eq_self.mpr fun m hm => ?_
    obtain ⟨k, -, rfl⟩ := List.mem_map.mp hm
    exact bne_iff_ne.mpr (hmoves k)
  have hlen : roundStart due (n + 1) - roundStart due n = due n (roundStart due n) - roundStart due n + 1 :=
    Nat.sub_add_comm (hle n _)
  rw [roundMoves, hfilter, hlen, List.range'_1_concat, List.map_append, Nat.add_sub_cancel' (hle n _), ← hdue n]
  rfl

/-- The first `n` rounds make the interleaving up to the start of round `n`. -/
theorem flatMap_roundMoves (hmoves : ∀ k, moves k ≠ .terminate) (hle : ∀ n k, k ≤ due n k)
    (hdue : ∀ n k, moves (due n k) = dueMoveOfRound n) (n : Nat) :
    (List.range n).flatMap (roundMoves (otherMovesOfRound moves due)) =
      (List.range (roundStart due n)).map moves := by
  induction n with
  | zero => rfl
  | succ n ih =>
    have hstart : roundStart due n ≤ roundStart due (n + 1) := (hle n _).trans (Nat.le_succ _)
    rw [List.range_succ, List.flatMap_append, ih, List.flatMap_singleton,
      roundMoves_otherMovesOfRound hmoves hle hdue, ← List.map_append, List.range_eq_range', List.range_eq_range']
    have happend := List.range'_append_1 (s := 0) (m := roundStart due n)
      (n := roundStart due (n + 1) - roundStart due n)
    rw [Nat.zero_add, Nat.add_sub_cancel' hstart] at happend
    rw [happend]

end Sys2Proof

namespace Sys2Proof.Proofs

open Machine

/-- Settles O60: every agenda is used up, so every round comes with its due move, each agent's in turn; and a fair
interleaving is cut into rounds after the due moves it holds. -/
theorem infiniteRunsAreFair : Obligations.InfiniteRunsAreFair := by
  refine ⟨fun tr hrun hfree => ?run, fun moves hfair => ?rounds⟩
  case run =>
    obtain ⟨hdt, hst, hengine⟩ := fairRun_of_isRun hrun hfree
    refine ⟨⟨hdt, hst, hengine⟩, fun hle => ?dt, fun hle => ?st⟩
    case dt =>
      obtain ⟨k, hk⟩ := eventually_zero (f := fun k => (tr k).dt.toNat) hle
        (hdt.mono fun j => dt_of_tick (hrun j))
      exact ⟨k, fun j hj => BitVec.eq_of_toNat_eq (hk j hj)⟩
    case st =>
      obtain ⟨k, hk⟩ := eventually_zero (f := fun k => (tr k).st.toNat) hle
        (hst.mono fun j => st_of_tick (hrun j))
      exact ⟨k, fun j hj => BitVec.eq_of_toNat_eq (hk j hj)⟩
  case rounds =>
    choose due hle hdue using hfair.exists_due
    exact ⟨otherMovesOfRound moves due, fun n =>
      ⟨roundStart due n, le_roundStart hle n, flatMap_roundMoves hfair.1 hle hdue n⟩⟩

end Sys2Proof.Proofs
end
